-- ==== Sys2Proof/Word.lean ====
section
/-! DEFINITION. The word types of the part: bytes, 16-bit fields and page handles. -/

namespace Sys2Proof

/-- A byte of a frame, of the store, or a sample of a page (0 to 255). -/
abbrev Byte := BitVec 8

/-- A two-byte field of a frame, sent most significant byte first. -/
abbrev Word16 := BitVec 16

/-- A page handle, the number of a page record (R3). -/
abbrev Handle := BitVec 8

end Sys2Proof
end

