-- ==== Sys2Proof/Syntax.lean ====
section
/-! DEFINITION. The commands the part takes: one constructor of `Instr` for each row of
spec/opcode_table.json, with the operands the spec gives it. -/

namespace Sys2Proof

/-- The three ports, one for each link (R170). -/
inductive Port where
  | compose
  | press
  | proof
  deriving DecidableEq, Repr, Inhabited

/-- The retention class of a page (Table 1-1). -/
inductive Retention where
  | keep
  | volatile
  deriving DecidableEq, Repr, Inhabited

/-- The storage mode of a plane-band (R61). -/
inductive StorageMode where
  | coded
  | raw
  deriving DecidableEq, Repr, Inhabited

/-- An index entry (Table 2-3). The spec gives no layout of the four fields in the entry's eight
bytes, so an entry is kept whole (DESIGN CHOICE, log entry 2). -/
structure IndexEntry where
  offset : Nat
  length : Nat
  mode   : StorageMode
  check  : Word16
  deriving DecidableEq, Repr, Inhabited

/-- The parameter field of OPEN_PAGE without the continue flag (R181): the option byte's retention
bit and planes bits are given apart, its three ignored bits are dropped. -/
structure OpenParams where
  handle     : Handle
  retention  : Retention
  planes     : BitVec 3
  bandHeight : Byte
  width      : Word16
  height     : Word16
  /-- Six values of four bits, plane 0 in the most significant four. -/
  tolerances : BitVec 24
  deriving DecidableEq, Repr, Inhabited

/-- The parameter field of VIEW (R181). -/
structure ViewParams where
  handle     : Handle
  planeMask  : Byte
  firstBand  : Word16
  bandCount  : Word16
  decimation : Byte
  depth      : Byte
  deriving DecidableEq, Repr, Inhabited

/-- A line block as it arrives at a port (Table 9-7), mark left out. -/
structure LineBlock where
  kind   : Byte
  depth  : Byte
  plane  : Byte
  line   : Word16
  count  : Word16
  data   : List Byte
  crc    : Word16
  deriving DecidableEq, Repr, Inhabited

/-- Store contents that changed on their own since the transfer before (R36, R68, R157): data bytes by
store byte, and index entries by the store byte each begins at (log entry 3). -/
structure StoreChange where
  bytes   : List (Nat × Byte)
  entries : List (Nat × IndexEntry)
  deriving DecidableEq, Repr, Inhabited

/-- The two band buffers of the press decode channel (R97). -/
inductive BufferId where
  | a
  | b
  deriving DecidableEq, Repr, Inhabited

/-- Where a plane-band is being decoded: a press buffer or the proof buffer (R97, R103). -/
inductive DecodeSlot where
  | press (id : BufferId)
  | proof
  deriving DecidableEq, Repr, Inhabited

/-- The sensor's value in °C as a ratio of whole numbers (R164); the spec gives no resolution. -/
structure SensorValue where
  numerator   : Int
  denominator : Nat
  deriving DecidableEq, Repr, Inhabited

/-- The commands of spec/opcode_table.json. The first twenty are command frames that passed their
frame check; each is judged by R183 at the port it arrives at. -/
inductive Instr where
  | status (port : Port)
  | queryPage (port : Port) (handle : Handle) (extentStart : Word16)
  | listPages (port : Port) (first : Handle) (count : Word16)
  | openPage (port : Port) (params : OpenParams)
  | openPageContinue (port : Port) (handle : Handle)
  | sealPage (port : Port)
  | abandonPage (port : Port)
  | enqueue (port : Port) (handle : Handle) (copies : Byte)
  | rebind (port : Port) (old new : Handle)
  | release (port : Port) (first last : Handle)
  | peekQueue (port : Port)
  | start (port : Port) (startBand lead trail window : Word16)
  | skip (port : Port)
  | stop (port : Port)
  | view (port : Port) (params : ViewParams)
  | hold (port : Port) (handle : Handle) (reason : Byte)
  | lift (port : Port) (handle : Handle)
  | rest (port : Port)
  | wake (port : Port)
  | unknownCommand (port : Port) (code : Byte)
  | frameCheckFailure (port : Port)
  | lineBlock (port : Port) (block : LineBlock)
  | blockToken (port : Port) (code : Byte)
  | strayByte (port : Port) (byte : Byte)
  | linkUp (port : Port)
  | linkLoss (port : Port)
  | deviceReset
  | powerOnReset
  | lineCodingEnd
  | extentTake
  | transferCompletion (change : StoreChange)
  | refreshCompletion
  | planeBandDecoded (slot : DecodeSlot)
  | refreshTimerExpiry
  | bandWindowExpiry
  | thermalReading (sensor : SensorValue)
  | frameSent (port : Port)
  deriving DecidableEq, Repr, Inhabited

end Sys2Proof
end

