-- ==== Sys2Proof/Config.lean ====
section
/-! DEFINITION. What the spec leaves open, as constants without a body: nothing can prove a value of
them, so a claim that mentions them holds whatever they are. -/

namespace Sys2Proof.Config

/-- The byte a read finds at a store byte that holds undefined content (R37, R38). The first argument
counts the events that made the contents of the byte's retention segment undefined (power-on resets, and
the rest entries that did not retain the segment); the second is the store byte's number. -/
opaque undefinedByte : Nat → Nat → Byte

/-- The index entry a read finds where undefined content lies (R30, R37); arguments as above. -/
opaque undefinedEntry : Nat → Nat → IndexEntry

/-- The port state code of DOWN: the spec gives none (R177), and no reply is made in DOWN. -/
opaque downStateCode : Byte

end Sys2Proof.Config
end

