-- ==== Sys2Proof/Machine/State.lean ====
section
/-! DEFINITION. The state of the part, all of it plain data: the ports, the page directory, the free
set, the band store, the band encoder, the two decode channels, the print queue, the two delivery
records, the store scheduler, the thermal monitor, rest control, and the queue of waiting commands. -/

namespace Sys2Proof.Machine

/-! ## Links and ports (R174) -/

/-- The five port states (Table 9-3). -/
inductive PortState where
  | down
  | idle
  | inbound
  | outbound
  | resting
  deriving DecidableEq, Repr, Inhabited

/-- The result codes of a reply (Table 9-6). -/
inductive Result where
  | ok
  | illegal
  | param
  | noPage
  | state
  | directoryFull
  | queueFull
  | held
  | incomplete
  | partialRelease
  | queueEmpty
  deriving DecidableEq, Repr, Inhabited

/-- The token codes (R179). -/
inductive Token where
  | accept
  | rejectCheck
  | rejectOrder
  | rejectFull
  deriving DecidableEq, Repr, Inhabited

/-- The outcomes of a delivery or a view (Table 6-5, R142). -/
inductive Ending where
  | done
  | stopped
  | underrun
  | rejected
  | damaged
  deriving DecidableEq, Repr, Inhabited

/-- The kinds of a line block (R178). -/
inductive BlockKind where
  | page
  | margin
  deriving DecidableEq, Repr, Inhabited

/-- The depths of a line block (R178). -/
inductive Depth where
  | full
  | draft4
  deriving DecidableEq, Repr, Inhabited

/-- A frame the part sends (R177 to R179). `Frame.bytes` gives its bytes. -/
inductive Frame where
  | reply (code : Byte) (result : Result) (port : PortState) (payload : List Byte)
  | token (t : Token)
  | block (kind : BlockKind) (depth : Depth) (plane line count : Nat) (data : List Byte)
  | endNotice (ending : Ending) (handle : Handle) (resume : Nat)
  deriving DecidableEq, Repr, Inhabited

/-- What a port holds (R174), but for late token owed, which only the Press and Proof ports have. -/
structure PortRec where
  state       : PortState
  /-- The code of the command taken and not yet answered in full (R183). -/
  outstanding : Option Byte
  /-- Frames produced and not yet finished sending, oldest first. -/
  transmit    : List Frame
  frameCheck  : Bool
  stray       : Bool
  /-- The bytes of the frame being received, none between frames (R175). -/
  receiver    : List Byte
  deriving DecidableEq, Repr, Inhabited

/-! ## The page directory (R3) -/

/-- The page states (Table 1-3). -/
inductive PageState where
  | free
  | filling
  | sealed
  | torn
  | damaged
  | lost
  deriving DecidableEq, Repr, Inhabited

/-- A page record (Table 1-2). -/
structure PageRecord where
  state          : PageState
  planes         : Nat
  width          : Nat
  height         : Nat
  bandHeight     : Nat
  tolerances     : Vector Nat 6
  retention      : Retention
  committed      : Nat
  streamLength   : Nat
  /-- Entry k holds stream bytes k × 65536 onward (R32). -/
  extents        : List Nat
  holdReason     : Option Byte
  releasePending : Bool
  references     : Nat
  firstDamaged   : Option Nat
  deriving DecidableEq, Repr, Inhabited

/-- The FREE reset values of a record (R3). -/
def PageRecord.free : PageRecord where
  state          := .free
  planes         := 0
  width          := 0
  height         := 0
  bandHeight     := 0
  tolerances     := Vector.replicate 6 0
  retention      := .keep
  committed      := 0
  streamLength   := 0
  extents        := []
  holdReason     := none
  releasePending := false
  references     := 0
  firstDamaged   := none

/-- The shape of a page as the encoder, the channels and the ports copy it from its record. -/
structure Shape where
  planes     : Nat
  width      : Nat
  height     : Nat
  bandHeight : Nat
  tolerances : Vector Nat 6
  deriving DecidableEq, Repr, Inhabited

/-! ## The extent allocator and the band store -/

/-- The extents from `first` to `last`. -/
structure Span where
  first : Nat
  last  : Nat
  deriving DecidableEq, Repr, Inhabited

/-- A store unit: unit `unit` of extent `extent` (R33). -/
structure UnitAddr where
  extent : Nat
  unit   : Nat
  deriving DecidableEq, Repr, Inhabited

/-- The band store's contents. `bytes` lists the data bytes written, addresses strictly rising;
`entries` lists the index entries written, by the store byte each begins at, strictly rising. What is
not listed is undefined content (log entries 1 and 2). -/
structure Memory where
  bytes   : List Host.Cell
  entries : List (Nat × IndexEntry)
  deriving DecidableEq, Repr, Inhabited

/-! ## Band coding (Table 3-1) -/

/-- A coding context: accumulator A and count N (R45, R53). -/
structure Context where
  acc : Nat
  cnt : Nat
  deriving DecidableEq, Repr, Inhabited

/-- The coding state of one plane-band (Table 3-1). -/
structure Coding where
  row        : Nat
  /-- The reconstructed values of the row above; empty for row 0. -/
  above      : List Byte
  /-- The reconstructed values of the current row, columns 0 to i − 1; its length is the column i. -/
  current    : List Byte
  regular    : Vector Context 4
  run        : Context
  /-- The run value, present while break pending. -/
  breakValue : Option Byte
  bitCount   : Nat
  stopped    : Bool
  check      : Word16
  deriving DecidableEq, Repr, Inhabited

/-! ## The band encoder (Table 4-1) -/

/-- What a commit's first stage hands on, and how far its writes have gone (R80, R82). -/
structure CommitOutcome where
  mode            : StorageMode
  length          : Nat
  check           : Word16
  offset          : Nat
  extentsTaken    : List Nat
  writesRemaining : Nat
  deriving DecidableEq, Repr, Inhabited

/-- The stages of a commit. The first stage ends and the extent take is judged in one event (log
entry 7). -/
inductive Commit where
  | finishing
  | writing (o : CommitOutcome)
  deriving DecidableEq, Repr, Inhabited

/-- The encoder states but IDLE, which is the absence of the encoder's work (Table 4-2). -/
inductive EncoderPhase where
  | ready
  | lineCoding
  | committing (c : Commit)
  | complete
  deriving DecidableEq, Repr, Inhabited

/-- A Compose command whose reply waits for the token owed. -/
inductive DeferredReply where
  | sealPage
  | abandonPage
  deriving DecidableEq, Repr, Inhabited

/-- What the band encoder holds while a page is FILLING (Table 4-1). -/
structure EncoderWork where
  phase       : EncoderPhase
  handle      : Handle
  expected    : Option Nat
  stagedLines : Nat
  staging     : List Byte
  /-- The bit stream of the expected plane-band so far. -/
  output      : List Bool
  coding      : Option Coding
  deferred    : Option DeferredReply
  deriving DecidableEq, Repr, Inhabited

/-! ## The decode channels -/

/-- A plane-band under way in a decode channel (R92, R93). -/
structure Decoding where
  /-- Absent until the index entry has been read. -/
  entry     : Option IndexEntry
  unitsRead : Nat
  /-- Stored bits fed to the decoder and not yet read by it. -/
  unread    : List Bool
  coding    : Coding
  /-- The samples rebuilt in whole rows so far. -/
  samples   : List Byte
  /-- A finding of Table 3-10 was made on a word. -/
  malformed : Bool
  deriving DecidableEq, Repr, Inhabited

/-- A band buffer of the press channel (Tables 5-1 and 5-2). `planes` holds the verified planes of its
band in plane order. -/
inductive BandBuffer where
  | empty
  | decoding (band plane : Nat) (work : Decoding) (planes : List (List Byte))
  | ready (band : Nat) (planes : List (List Byte))
  | sending (band : Nat) (planes : List (List Byte))
  deriving DecidableEq, Repr, Inhabited

/-- The press decode channel while ACTIVE (Table 5-1). -/
structure PressChannel where
  handle    : Handle
  shape     : Shape
  startBand : Nat
  nextBand  : Nat
  stopBand  : Option Nat
  bufferA   : BandBuffer
  bufferB   : BandBuffer
  deriving DecidableEq, Repr, Inhabited

/-- The plane-band buffer of the proof channel (R103). -/
inductive PlaneBuffer where
  | empty
  | decoding (work : Decoding)
  | sending (samples : List Byte)
  deriving DecidableEq, Repr, Inhabited

/-- The proof decode channel while ACTIVE (R103). -/
structure ProofChannel where
  handle     : Handle
  shape      : Shape
  planeMask  : List Nat
  firstBand  : Nat
  bandCount  : Nat
  decimation : Nat
  band       : Nat
  plane      : Nat
  buffer     : PlaneBuffer
  deriving DecidableEq, Repr, Inhabited

/-! ## Deliveries -/

/-- The phases of a press delivery (R118). -/
inductive Phase where
  | lead
  | page
  | trail
  deriving DecidableEq, Repr, Inhabited

/-- A block of the line order: a margin line or a page line, and a plane. -/
structure BlockRef where
  phase : Phase
  line  : Nat
  plane : Nat
  deriving DecidableEq, Repr, Inhabited

/-- The band window timer (Table 6-3). -/
inductive WindowTimer where
  | off
  | running
  | stopped
  deriving DecidableEq, Repr, Inhabited

/-- The delivery record of the Press port (Table 6-3). -/
structure Delivery where
  handle           : Handle
  shape            : Shape
  startBand        : Nat
  lead             : Nat
  trail            : Nat
  window           : Nat
  phase            : Phase
  /-- The block to be sent next; absent past the end of the line order. -/
  next             : Option BlockRef
  /-- The block sent whose token has not been taken. -/
  outstanding      : Option BlockRef
  firstNotComplete : Nat
  timer            : WindowTimer
  deriving DecidableEq, Repr, Inhabited

/-- A selected line of a view: band, plane and page line. -/
structure ViewRef where
  band  : Nat
  plane : Nat
  line  : Nat
  deriving DecidableEq, Repr, Inhabited

/-- The view record of the Proof port (Table 7-3). -/
structure ViewRecord where
  handle       : Handle
  shape        : Shape
  planeMask    : List Nat
  firstBand    : Nat
  endBand      : Nat
  decimation   : Nat
  depth        : Depth
  next         : Option ViewRef
  outstanding  : Option ViewRef
  firstNotSent : Nat
  deriving DecidableEq, Repr, Inhabited

/-! ## The store scheduler, the thermal monitor and rest control -/

/-- What a read brings a decode channel: its index entry, or a run of bytes of the unit. -/
inductive ReadTarget where
  | entry (offset : Nat)
  | bytes (offset length : Nat)
  deriving DecidableEq, Repr, Inhabited

/-- A read a decode channel asks for: which plane-band asks, which unit, what of it is used. The
address is absent where the page's extent list has no entry for the stream unit. -/
structure ReadReq where
  slot   : DecodeSlot
  addr   : Option UnitAddr
  target : ReadTarget
  deriving DecidableEq, Repr, Inhabited

/-- What a write of the encoder puts into a unit. -/
inductive WriteData where
  | bytes (data : List Byte)
  | entry (e : IndexEntry)
  deriving DecidableEq, Repr, Inhabited

/-- A write of the encoder: the unit, where in it the write begins, and the new contents. -/
structure WriteReq where
  addr   : Option UnitAddr
  offset : Nat
  data   : WriteData
  deriving DecidableEq, Repr, Inhabited

/-- The operation the store is performing. `live` is false once the requester has given up the work
the transfer belongs to: its completion is handed to no one (R35, R94). -/
inductive Grant where
  | press (r : ReadReq) (live : Bool)
  | encoder (w : WriteReq) (live : Bool)
  | proof (r : ReadReq) (live : Bool)
  | refresh
  deriving DecidableEq, Repr, Inhabited

/-- The store scheduler (Table 8-1). -/
structure Scheduler where
  grant         : Option Grant
  pressReq      : Option ReadReq
  encoderReq    : Option WriteReq
  proofReq      : Option ReadReq
  debt          : Int
  timerRunning  : Bool
  /-- The interval in use, in units of 10 ns. -/
  interval      : Nat
  refreshMissed : Bool
  drain         : Bool
  selfRetention : Bool
  deriving DecidableEq, Repr, Inhabited

/-- The thermal classes (R164). -/
inductive Thermal where
  | cool
  | normal
  | warm
  | hot
  deriving DecidableEq, Repr, Inhabited

/-- The store modes (Table 10-1). -/
inductive StoreMode where
  | active
  | enteringRest
  | retained
  deriving DecidableEq, Repr, Inhabited

/-! ## The whole state -/

/-- The state of the part. -/
structure State where
  compose      : PortRec
  press        : PortRec
  proof        : PortRec
  /-- Late token owed at the Press port (R131). -/
  pressLate    : Bool
  /-- Late token owed at the Proof port (R147). -/
  proofLate    : Bool
  pages        : Vector PageRecord 256
  freeRecords  : Nat
  /-- The free set: disjoint spans with a gap between each and the next, rising. -/
  freeSet      : List Span
  store        : Memory
  /-- For each retention segment, how many events have made its contents undefined: the argument of the
  free values of Config (the model's own field, log entry 1). -/
  undefinedDraws : Vector Nat 8
  queue        : List Handle
  /-- The delivering mark on the head entry (R109). -/
  delivering   : Bool
  /-- Absent while the encoder is IDLE. -/
  encoder      : Option EncoderWork
  /-- Absent while the press channel is IDLE. -/
  pressChannel : Option PressChannel
  /-- Absent while the proof channel is IDLE. -/
  proofChannel : Option ProofChannel
  delivery     : Option Delivery
  view         : Option ViewRecord
  sched        : Scheduler
  lastReading  : Option Int
  thermal      : Thermal
  mode         : StoreMode
  /-- The retained set, held while RETAINED (R191). -/
  retained     : Option (List Nat)
  /-- The commands waiting, first in first out. -/
  pending      : List Instr
  deriving DecidableEq, Repr, Inhabited

/-- Why the machine stops with a fault. -/
inductive Fault where
  /-- Raised by TRANSFER_COMPLETION when the granted transfer's unit is no unit of the store: the page's
  extent list has no entry for it, or its number is past the last extent. Safe: R31, R32 and R39 keep it
  from arising in a run, and the model stops where the spec gives the store no such unit (log entry 15). -/
  | absentStoreUnit
  deriving DecidableEq, Repr, Inhabited

/-- Why a command is refused. -/
inductive Refusal where
  /-- Raised by `exec` for a command that has no meaning yet; none is left. Safe. -/
  | notModelled (mnemonic : String)
  deriving DecidableEq, Repr, Inhabited

/-! ## Reset -/

/-- A port after power-on reset (R173). -/
def PortRec.reset : PortRec where
  state       := .down
  outstanding := none
  transmit    := []
  frameCheck  := false
  stray       := false
  receiver    := []

/-- The scheduler after power-on reset (Table 8-7): debt 0, the timer started with 7.8 µs. -/
def Scheduler.reset : Scheduler where
  grant         := none
  pressReq      := none
  encoderReq    := none
  proofReq      := none
  debt          := 0
  timerRunning  := true
  interval      := 780
  refreshMissed := false
  drain         := false
  selfRetention := false

/-- The part after power-on reset (R24, R37, R43, R91, R107, R110, R134, R138, R163, R168, R173, R194). -/
def State.reset : State where
  compose        := PortRec.reset
  press          := PortRec.reset
  proof          := PortRec.reset
  pressLate      := false
  proofLate      := false
  pages          := Vector.replicate 256 PageRecord.free
  freeRecords    := 256
  freeSet        := [⟨384, 32767⟩]
  store          := ⟨[], []⟩
  undefinedDraws := Vector.replicate 8 0
  queue          := []
  delivering     := false
  encoder        := none
  pressChannel   := none
  proofChannel   := none
  delivery       := none
  view           := none
  sched          := Scheduler.reset
  lastReading    := none
  thermal        := .normal
  mode           := .active
  retained       := none
  pending        := []

end Sys2Proof.Machine
end

