-- ==== Sys2Proof/Machine/BandStore.lean ====
section
/-! DEFINITION. The band store's contents, where things lie in it, and the extent allocator's free set
(02_the_band_store.md). -/

namespace Sys2Proof.Machine

/-! ## Tables: lists of address and value, addresses strictly rising -/

/-- The value listed at address `a`. -/
def tableGet {α : Type} (a : Nat) : List (Nat × α) → Option α
  | [] => none
  | (k, v) :: t => if k = a then some v else tableGet a t

/-- The table with `v` at address `a`, its order kept. -/
def tableSet {α : Type} (a : Nat) (v : α) : List (Nat × α) → List (Nat × α)
  | [] => [(a, v)]
  | (k, w) :: t =>
    if a < k then (a, v) :: (k, w) :: t
    else if a = k then (a, v) :: t
    else (k, w) :: tableSet a v t

/-- Addresses strictly rise. -/
abbrev tableRising {α : Type} (t : List (Nat × α)) : Prop := t.Pairwise fun x y => x.1 < y.1

/-- The canonical form of the store's contents: both tables rise strictly. -/
abbrev Memory.wf (m : Memory) : Prop := tableRising m.bytes ∧ tableRising m.entries

/-! ## Contents -/

/-- The retention segment of a store byte (R27). -/
def segmentOfByte (a : Nat) : Nat := a / 65536 / 4096

/-- How often the contents of store byte `a` have become undefined (log entry 1). -/
def drawsAt (draws : Vector Nat 8) (a : Nat) : Nat := draws.toList.getD (segmentOfByte a) 0

/-- The counts after the contents of every segment outside `retained` have become undefined (R38). -/
def redraw (retained : List Nat) (draws : Vector Nat 8) : Vector Nat 8 :=
  ⟨(draws.toList.zipIdx.map fun x => if x.2 ∈ retained then x.1 else x.1 + 1).toArray, by simp⟩

/-- The data byte at store byte `a`; undefined content is a free value (R37, R38, log entry 1). -/
def Memory.readByte (m : Memory) (draws : Vector Nat 8) (a : Nat) : Byte :=
  (tableGet a m.bytes).getD (Config.undefinedByte (drawsAt draws a) a)

/-- The index entry that begins at store byte `a`; undefined content is a free value (R30). -/
def Memory.readEntry (m : Memory) (draws : Vector Nat 8) (a : Nat) : IndexEntry :=
  (tableGet a m.entries).getD (Config.undefinedEntry (drawsAt draws a) a)

def Memory.writeByte (m : Memory) (a : Nat) (b : Byte) : Memory :=
  { m with bytes := tableSet a b m.bytes }

def Memory.writeEntry (m : Memory) (a : Nat) (e : IndexEntry) : Memory :=
  { m with entries := tableSet a e m.entries }

/-- The bytes `bs` written from store byte `a` upward. -/
def Memory.writeBytes (m : Memory) (a : Nat) : List Byte → Memory
  | [] => m
  | b :: bs => (m.writeByte a b).writeBytes (a + 1) bs

/-- The `len` data bytes from store byte `a` upward. -/
def Memory.readBytes (m : Memory) (draws : Vector Nat 8) (a len : Nat) : List Byte :=
  (List.range len).map fun i => m.readByte draws (a + i)

/-- The contents after the store changed on its own (R36, R68, R157). -/
def Memory.change (m : Memory) (c : StoreChange) : Memory :=
  c.entries.foldl (fun m x => m.writeEntry x.1 x.2) (c.bytes.foldl (fun m x => m.writeByte x.1 x.2) m)

/-- The contents once those of every segment outside `retained` have become undefined (R38). -/
def Memory.keepSegments (m : Memory) (retained : List Nat) : Memory where
  bytes   := m.bytes.filter fun c => segmentOfByte c.1 ∈ retained
  entries := m.entries.filter fun c => segmentOfByte c.1 ∈ retained

/-! ## Where things lie (R27, R28, R32, R33) -/

/-- Whether the store has this unit (R27, R33). -/
def UnitAddr.present (u : UnitAddr) : Bool := u.extent < 32768 && u.unit < 256

/-- The first store byte of a unit (R33). -/
def UnitAddr.base (u : UnitAddr) : Nat := u.extent * 65536 + u.unit * 256

/-- The store byte at which the index entry of a position begins: extents 0 to 383 are the index region,
so index-region byte r is store byte r (R28). -/
def entryByte (h : Handle) (position : Nat) : Nat := h.toNat * 98304 + position * 8

/-- The unit that holds store byte `a`. -/
def unitOfByte (a : Nat) : UnitAddr := ⟨a / 65536, a % 65536 / 256⟩

/-- The unit under stream unit `u` of a page with this extent list (R32). -/
def streamUnit (extents : List Nat) (u : Nat) : Option UnitAddr :=
  extents[u / 256]?.map fun e => ⟨e, u % 256⟩

/-! ## The free set (R39 to R41) -/

/-- The canonical form of the free set: no span is empty, and a gap lies between each and the next. -/
abbrev spansWf (f : List Span) : Prop :=
  (∀ s ∈ f, s.first ≤ s.last) ∧ f.Pairwise fun s t => s.last + 1 < t.first

/-- Whether extent `e` is free. -/
def isFree (f : List Span) (e : Nat) : Bool := f.any fun s => s.first ≤ e && e ≤ s.last

/-- The free-extent count (R39). -/
def freeCount (f : List Span) : Nat := (f.map fun s => s.last + 1 - s.first).sum

/-- The lowest free extent and the set without it. -/
def takeLowest : List Span → Option (Nat × List Span)
  | [] => none
  | s :: t => some (s.first, if s.first < s.last then ⟨s.first + 1, s.last⟩ :: t else t)

/-- The highest free extent and the set without it. -/
def takeHighest : List Span → Option (Nat × List Span)
  | [] => none
  | [s] => some (s.last, if s.first < s.last then [⟨s.first, s.last - 1⟩] else [])
  | s :: t :: u => (takeHighest (t :: u)).map fun (e, rest) => (e, s :: rest)

/-- The extent a take removes next: the lowest for a KEEP page, the highest for a VOLATILE one (R40). -/
def takeOne (r : Retention) (f : List Span) : Option (Nat × List Span) :=
  match r with
  | .keep => takeLowest f
  | .volatile => takeHighest f

/-- A take of `n` extents: those removed in the order of removal, and the set without them. Absent where
the set holds fewer (R40). -/
def takeExtents (r : Retention) : Nat → List Span → Option (List Nat × List Span)
  | 0, f => some ([], f)
  | n + 1, f =>
    match takeOne r f with
    | none => none
    | some (e, f') => (takeExtents r n f').map fun (es, f'') => (e :: es, f'')

/-- The free set with extent `e` in it. -/
def freeExtent (e : Nat) : List Span → List Span
  | [] => [⟨e, e⟩]
  | s :: t =>
    if e + 1 < s.first then ⟨e, e⟩ :: s :: t
    else if e + 1 = s.first then ⟨e, s.last⟩ :: t
    else if e ≤ s.last then s :: t
    else if e = s.last + 1 then
      match t with
      | [] => [⟨s.first, e⟩]
      | u :: t' => if u.first = e + 1 then ⟨s.first, u.last⟩ :: t' else ⟨s.first, e⟩ :: u :: t'
    else s :: freeExtent e t

/-- A return of extents to the free set (R41). -/
def returnExtents (es : List Nat) (f : List Span) : List Span := es.foldl (fun f e => freeExtent e f) f

/-- The retention segment of an extent (R27). -/
def segmentOf (e : Nat) : Nat := e / 4096

end Sys2Proof.Machine
end

