-- ==== Sys2Proof/Machine/Bits.lean ====
section
/-! DEFINITION. Bits, bytes and multi-byte fields, most significant first (00_scope.md), and the two
CRCs (R64, R180). -/

namespace Sys2Proof.Machine

/-- The low `width` bits of `n`, most significant first. -/
def natBits (width n : Nat) : List Bool :=
  (List.range width).map fun i => n.testBit (width - 1 - i)

/-- The number a list of bits spells, most significant first. -/
def bitsNat (bits : List Bool) : Nat :=
  bits.foldl (fun n b => 2 * n + b.toNat) 0

/-- The bits of a byte, most significant first. -/
def byteBits (b : Byte) : List Bool := natBits 8 b.toNat

/-- The first `n` bytes that a bit list fills from the most significant bit of each byte downward,
zero bits after its end (R56). -/
def packBytes : Nat → List Bool → List Byte
  | 0, _ => []
  | n + 1, bits =>
    BitVec.ofNat 8 (bitsNat ((bits ++ List.replicate 8 false).take 8)) :: packBytes n (bits.drop 8)

/-- ceil(n / d). -/
def ceilDiv (n d : Nat) : Nat := (n + d - 1) / d

/-- A two-byte field, most significant byte first. -/
def field16 (n : Nat) : List Byte := [BitVec.ofNat 8 (n / 256), BitVec.ofNat 8 n]

/-- A four-byte field, most significant byte first. -/
def field32 (n : Nat) : List Byte := field16 (n / 65536) ++ field16 n

/-- The 16-bit number of two bytes, most significant byte first. -/
def join16 (hi lo : Byte) : Word16 := hi ++ lo

/-- One shift of the CRC-16 register (R64). -/
def crc16Shift (r : Word16) : Word16 :=
  if r.msb then (r <<< 1) ^^^ 0x1021#16 else r <<< 1

/-- The CRC-16 register after one more byte (R64). -/
def crc16Byte (r : Word16) (b : Byte) : Word16 :=
  Nat.repeat crc16Shift 8 (r ^^^ (b ++ 0#8 : Word16))

/-- The CRC-16 register before the first byte (R64). -/
def crc16Init : Word16 := 0xFFFF#16

/-- The CRC-16 of reply frames, line blocks and stored plane-bands (R64). -/
def crc16 (bytes : List Byte) : Word16 := bytes.foldl crc16Byte crc16Init

/-- One shift of the CRC-8 register (R180). -/
def crc8Shift (r : Byte) : Byte :=
  if r.msb then (r <<< 1) ^^^ 0x07#8 else r <<< 1

/-- The CRC-8 of command frames and end notices (R180). -/
def crc8 (bytes : List Byte) : Byte :=
  bytes.foldl (fun r b => Nat.repeat crc8Shift 8 (r ^^^ b)) 0#8

end Sys2Proof.Machine
end

