-- ==== Sys2Proof/Machine/Frames.lean ====
section
/-! DEFINITION. The codes of the frames, the bytes of the frames the part sends, and which command is
taken on which port in which state (09_links_frames_and_port_states.md). -/

namespace Sys2Proof.Machine

/-! ## Codes -/

/-- The commands of Table 9-5. -/
inductive Cmd where
  | status
  | queryPage
  | listPages
  | openPage
  | sealPage
  | abandonPage
  | enqueue
  | rebind
  | release
  | peekQueue
  | start
  | skip
  | stop
  | view
  | hold
  | lift
  | rest
  | wake
  deriving DecidableEq, Repr, Inhabited

/-- The command codes (Table 9-5). -/
def Cmd.code : Cmd → Byte
  | .status      => 0x01
  | .queryPage   => 0x02
  | .listPages   => 0x03
  | .openPage    => 0x10
  | .sealPage    => 0x11
  | .abandonPage => 0x12
  | .enqueue     => 0x18
  | .rebind      => 0x19
  | .release     => 0x1A
  | .peekQueue   => 0x1B
  | .start       => 0x20
  | .skip        => 0x21
  | .stop        => 0x22
  | .view        => 0x28
  | .hold        => 0x29
  | .lift        => 0x2A
  | .rest        => 0x30
  | .wake        => 0x31

/-- Every command of Table 9-5. -/
def allCommands : List Cmd :=
  [.status, .queryPage, .listPages, .openPage, .sealPage, .abandonPage, .enqueue, .rebind, .release,
   .peekQueue, .start, .skip, .stop, .view, .hold, .lift, .rest, .wake]

/-- The command a code names, absent for a code not in Table 9-5. -/
def Cmd.ofCode (code : Byte) : Option Cmd := allCommands.find? fun c => c.code = code

/-- The result codes (Table 9-6). -/
def Result.code : Result → Byte
  | .ok             => 0x00
  | .illegal        => 0x01
  | .param          => 0x02
  | .noPage         => 0x03
  | .state          => 0x04
  | .directoryFull  => 0x05
  | .queueFull      => 0x06
  | .held           => 0x07
  | .incomplete     => 0x08
  | .partialRelease => 0x09
  | .queueEmpty     => 0x0A

/-- The port state codes (Table 9-6). DOWN has none, and no reply is made in it (log entry 9). -/
def PortState.code : PortState → Byte
  | .down     => Config.downStateCode
  | .idle     => 0x01
  | .inbound  => 0x02
  | .outbound => 0x03
  | .resting  => 0x04

/-- The token codes (R179). -/
def Token.code : Token → Byte
  | .accept      => 0x01
  | .rejectCheck => 0x02
  | .rejectOrder => 0x03
  | .rejectFull  => 0x04

/-- The token a code names, absent for an unknown code (R179). -/
def Token.ofCode (code : Byte) : Option Token :=
  [Token.accept, .rejectCheck, .rejectOrder, .rejectFull].find? fun t => t.code = code

/-- The outcome codes of an end notice (R179). -/
def Ending.code : Ending → Byte
  | .done     => 0x00
  | .stopped  => 0x01
  | .underrun => 0x02
  | .rejected => 0x03
  | .damaged  => 0x04

/-- The kinds of a line block (Table 9-7). -/
def BlockKind.code : BlockKind → Byte
  | .page   => 0x00
  | .margin => 0x01

/-- The depths of a line block (Table 9-7). -/
def Depth.code : Depth → Byte
  | .full   => 0x00
  | .draft4 => 0x01

/-- The state codes of a page (R182). -/
def PageState.code : PageState → Byte
  | .free    => 0x00
  | .filling => 0x01
  | .sealed  => 0x02
  | .torn    => 0x03
  | .damaged => 0x04
  | .lost    => 0x05

/-- The retention class codes (Table 9-10). -/
def retentionCode : Retention → Byte
  | .keep     => 0x00
  | .volatile => 0x01

/-- The store mode codes (Table 9-14). -/
def StoreMode.code : StoreMode → Byte
  | .active       => 0x00
  | .enteringRest => 0x01
  | .retained     => 0x02

/-- The thermal class codes (Table 9-14). -/
def Thermal.code : Thermal → Byte
  | .cool   => 0x00
  | .normal => 0x01
  | .warm   => 0x02
  | .hot    => 0x03

/-! ## Frames as bytes -/

/-- A frame closed by the CRC-16 over every byte after its mark. -/
def closed16 (mark : Byte) (body : List Byte) : List Byte :=
  mark :: body ++ field16 (crc16 body).toNat

/-- The bytes of a line block after its mark and before its CRC-16 (Table 9-7). -/
def blockBody (kind depth plane : Byte) (line count : Nat) (data : List Byte) : List Byte :=
  kind :: depth :: plane :: field16 line ++ field16 count ++ data

/-- The bytes of a frame the part sends (R177 to R179). -/
def Frame.bytes : Frame → List Byte
  | .reply code result port payload =>
    closed16 0xA5 (code :: result.code :: port.code :: field16 payload.length ++ payload)
  | .token t => [0x96, t.code]
  | .block kind depth plane line count data =>
    closed16 0x5A (blockBody kind.code depth.code (BitVec.ofNat 8 plane) line count data)
  | .endNotice ending handle resume =>
    let body := ending.code :: handle :: field16 resume
    0x69 :: body ++ [crc8 body]

/-- Whether a frame is a reply. -/
def Frame.isReply : Frame → Bool
  | .reply .. => true
  | _ => false

/-! ## Command availability -/

/-- The ports on which a command is allowed (Table 9-12). -/
def Cmd.ports : Cmd → List Port
  | .status | .queryPage | .listPages | .rest | .wake => [.compose, .press, .proof]
  | .openPage | .sealPage | .abandonPage | .enqueue | .rebind | .release => [.compose]
  | .peekQueue => [.compose, .press]
  | .start | .skip => [.press]
  | .stop => [.press, .proof]
  | .view | .hold | .lift => [.proof]

/-- The port states in which a command is taken (Table 9-12). -/
def Cmd.states : Cmd → List PortState
  | .status | .queryPage | .listPages => [.idle, .inbound, .outbound, .resting]
  | .openPage | .start | .skip | .view | .rest => [.idle]
  | .sealPage | .abandonPage => [.inbound]
  | .enqueue | .rebind | .release => [.idle, .inbound]
  | .peekQueue => [.idle, .inbound, .outbound]
  | .stop => [.outbound]
  | .hold | .lift => [.idle, .outbound]
  | .wake => [.resting]

/-- Whether a command is allowed on this port in this state (R184). -/
def Cmd.allowed (c : Cmd) (p : Port) (st : PortState) : Bool :=
  c.ports.contains p && c.states.contains st

end Sys2Proof.Machine
end

