-- ==== Sys2Proof/Machine/BandCode.lean ====
section
/-! DEFINITION. The band code (03_band_coding.md): prediction, quantisation, contexts, code words, runs,
the encoder of one line and the decoder fed byte by byte. -/

namespace Sys2Proof.Machine

/-! ## Contexts (R45, R53, R54) -/

/-- A context as every plane-band begins (R45). -/
def Context.initial : Context := ⟨4, 1⟩

/-- The smallest k from `k` up to `k + fuel` with N × 2^k ≥ A, and `k + fuel` if none is. -/
def riceSearch (c : Context) (k : Nat) : Nat → Nat
  | 0 => k
  | fuel + 1 => if c.acc ≤ c.cnt * 2 ^ k then k else riceSearch c (k + 1) fuel

/-- The Rice parameter of a regular context: at most 7 (R53). -/
def riceRegular (c : Context) : Nat := riceSearch c 0 7

/-- The Rice parameter of the run context: at most 12 (R53). -/
def riceRun (c : Context) : Nat := riceSearch c 0 12

/-- The update of a context after a word that carried `v` (R54). -/
def Context.update (c : Context) (v : Nat) : Context :=
  if c.cnt + 1 = 32 then ⟨(c.acc + v) / 2, 16⟩ else ⟨c.acc + v, c.cnt + 1⟩

/-- The coding state with which every plane-band begins (R45). -/
def Coding.initial : Coding where
  row        := 0
  above      := []
  current    := []
  regular    := Vector.replicate 4 Context.initial
  run        := Context.initial
  breakValue := none
  bitCount   := 0
  stopped    := false
  check      := crc16Init

/-! ## Prediction (R47 to R49) -/

/-- The neighbours a, b, c of a sample. -/
structure Neighbours where
  a : Byte
  b : Byte
  c : Byte
  deriving DecidableEq, Repr

/-- The neighbours of the next sample of the current row (R47, Table 3-2). -/
def neighbours (s : Coding) : Neighbours :=
  let i := s.current.length
  if s.row = 0 then
    if i = 0 then ⟨128, 128, 128⟩
    else let a := s.current.getD (i - 1) 0; ⟨a, a, a⟩
  else
    let b := s.above.getD i 0
    if i = 0 then ⟨b, b, b⟩
    else ⟨s.current.getD (i - 1) 0, b, s.above.getD (i - 1) 0⟩

/-- `x` clamped into `lo`..`hi` (00_scope.md). -/
def clamp (lo hi x : Int) : Int := if x < lo then lo else if hi < x then hi else x

/-- The prediction P = a + b − c, clamped into min(a, b)..max(a, b) (R48). -/
def prediction (n : Neighbours) : Int :=
  let a : Int := n.a.toNat
  let b : Int := n.b.toNat
  clamp (min a b) (max a b) (a + b - n.c.toNat)

/-- |x − y| for two samples. -/
def sampleDistance (x y : Byte) : Nat := ((x.toNat : Int) - y.toNat).natAbs

/-- The activity g = |a − c| + |b − c| (R49). -/
def activity (n : Neighbours) : Nat := sampleDistance n.a n.c + sampleDistance n.b n.c

/-- The activity class, which is the regular context used (Table 3-4). -/
def activityClass (g : Nat) : Fin 4 :=
  if g = 0 then 0 else if g ≤ 7 then 1 else if g ≤ 31 then 2 else 3

/-! ## Residuals (R50 to R52) -/

/-- The quantised residual q = sign(e) × floor((|e| + T) / s), s = 2T + 1 (R50). -/
def quantise (tol : Nat) (e : Int) : Int :=
  e.sign * (((e.natAbs + tol) / (2 * tol + 1) : Nat) : Int)

/-- The reconstructed value r = P + q × s, clamped into 0..255 (R51). -/
def reconstruct (tol : Nat) (p q : Int) : Byte :=
  BitVec.ofNat 8 (clamp 0 255 (p + q * (2 * tol + 1))).toNat

/-- The mapped value of a quantised residual (R52). -/
def mapResidual (q : Int) : Nat := if 0 ≤ q then (2 * q).toNat else (-2 * q - 1).toNat

/-- The quantised residual of a mapped value (R52). -/
def unmapResidual (m : Nat) : Int := if m % 2 = 0 then (m / 2 : Nat) else -((m + 1) / 2 : Nat)

/-! ## Code words (R55) -/

/-- The bits of an escaped regular value and of an escaped run length (R55). -/
def regularEscapeBits : Nat := 9

def runEscapeBits : Nat := 15

/-- The code word of `v` with Rice parameter `k`; an escape carries the value in `esc` bits (R55). -/
def codeWord (esc k v : Nat) : List Bool :=
  let u := v / 2 ^ k
  if u < 16 then List.replicate u true ++ false :: natBits k v
  else List.replicate 16 true ++ natBits esc v

/-- Reads one-bits up to a zero-bit or to `limit` of them: how many, whether a zero-bit ended them, and
the bits after. Absent where the bits run out first. -/
def readOnes : Nat → List Bool → Option (Nat × Bool × List Bool)
  | 0, bits => some (0, false, bits)
  | _ + 1, [] => none
  | _ + 1, false :: bits => some (0, true, bits)
  | limit + 1, true :: bits => (readOnes limit bits).map fun (u, z, rest) => (u + 1, z, rest)

/-- Reads one code word: its value, how many bits it took, and the bits after (R55). Absent where it
needs a bit that is not there. -/
def readWord (esc k : Nat) (bits : List Bool) : Option (Nat × Nat × List Bool) :=
  match readOnes 16 bits with
  | none => none
  | some (u, true, rest) =>
    if rest.length < k then none
    else some (u * 2 ^ k + bitsNat (rest.take k), u + 1 + k, rest.drop k)
  | some (_, false, rest) =>
    if rest.length < esc then none
    else some (bitsNat (rest.take esc), 16 + esc, rest.drop esc)

/-! ## The encoder -/

/-- How many samples at the front lie within T of v (R58). -/
def runLength (tol : Nat) (v : Byte) : List Byte → Nat
  | [] => 0
  | x :: xs => if sampleDistance x v ≤ tol then runLength tol v xs + 1 else 0

/-- The coding state with the samples `xs` appended to its current row. -/
def Coding.extend (s : Coding) (xs : List Byte) : Coding := { s with current := s.current ++ xs }

/-- The CRC taken on over the bytes that `output` has completed since it held `before` bits (R64). -/
def checkOver (check : Word16) (before : Nat) (output : List Bool) : Word16 :=
  (packBytes (output.length / 8 - before / 8) (output.drop (8 * (before / 8)))).foldl crc16Byte check

/-- Writes a code word, unless its last bit would pass 8 × the raw byte count (R56, R62). -/
def writeWord (raw : Nat) (word : List Bool) (s : Coding) (output : List Bool) :
    Option (Coding × List Bool) :=
  if 8 * raw < s.bitCount + word.length then none
  else some ({ s with bitCount := s.bitCount + word.length
                      check := checkOver s.check output.length (output ++ word) }, output ++ word)

/-- Codes one sample in regular mode (R50 to R52, R54). Absent where coding stops at its word. -/
def encodeRegular (tol raw : Nat) (x : Byte) (s : Coding) (output : List Bool) :
    Option (Coding × List Bool) :=
  let n := neighbours s
  let cls := activityClass (activity n)
  let ctx := s.regular[cls]
  let q := quantise tol ((x.toNat : Int) - prediction n)
  let m := mapResidual q
  (writeWord raw (codeWord regularEscapeBits (riceRegular ctx) m) s output).map fun (s', out) =>
    ({ s' with regular := s.regular.set cls (ctx.update m)
               current := s.current ++ [reconstruct tol (prediction n) q]
               breakValue := none }, out)

/-- Codes the run that begins at the next sample (R57, R58); `xs` is the rest of the row. -/
def encodeRun (tol raw : Nat) (xs : List Byte) (s : Coding) (output : List Bool) :
    Option (Coding × List Bool) :=
  let v := (neighbours s).a
  let len := runLength tol v xs
  (writeWord raw (codeWord runEscapeBits (riceRun s.run) len) s output).map fun (s', out) =>
    ({ s' with run := s.run.update len
               current := s.current ++ List.replicate len v
               breakValue := if len < xs.length then some v else none }, out)

/-- The end of a row (R60): the current row becomes the row above. -/
def Coding.endRow (s : Coding) : Coding := { s with row := s.row + 1, above := s.current, current := [] }

/-- Codes the rest `xs` of a row, one code word at a time (Table 3-8). Where the next word would pass
the raw size the coding stops (R62). -/
def encodeRest (tol raw : Nat) : Nat → List Byte → Coding → List Bool → Coding × List Bool
  | 0, _, s, output => (s, output)
  | _ + 1, [], s, output => (s.endRow, output)
  | fuel + 1, x :: xs, s, output =>
    if s.breakValue.isSome ∨ activity (neighbours s) ≠ 0 then
      match encodeRegular tol raw x s output with
      | none => ({ s with stopped := true }, output)
      | some (s', out) => encodeRest tol raw fuel xs s' out
    else
      match encodeRun tol raw (x :: xs) s output with
      | none => ({ s with stopped := true }, output)
      | some (s', out) =>
        encodeRest tol raw fuel ((x :: xs).drop (s'.current.length - s.current.length)) s' out

/-- Codes one line of a plane-band of `raw` raw bytes, or leaves the coding state alone once coding
has stopped (R78, R79). A row takes at most two words a sample. -/
def encodeLine (tol raw : Nat) (line : List Byte) (s : Coding) (output : List Bool) :
    Coding × List Bool :=
  if s.stopped then (s, output) else encodeRest tol raw (2 * line.length + 2) line s output

/-- The stored bytes of a coded plane-band: its bit stream padded to a byte boundary (R56). -/
def codedBytes (output : List Bool) : List Byte := packBytes (ceilDiv output.length 8) output

/-! ## The decoder (R66, R67) -/

/-- What a decoder knows of its plane-band besides its stored bytes (R45). -/
structure DecodeShape where
  width : Nat
  lines : Nat
  tol   : Nat
  deriving DecidableEq, Repr

/-- A plane-band as its decoding begins, before its index entry is read (R70). -/
def Decoding.initial : Decoding where
  entry     := none
  unitsRead := 0
  unread    := []
  coding    := Coding.initial
  samples   := []
  malformed := false

/-- Ends the row when its last column has been rebuilt, keeping the row's samples. -/
def Decoding.closeRow (p : DecodeShape) (d : Decoding) : Decoding :=
  if d.coding.current.length < p.width then d
  else { d with samples := d.samples ++ d.coding.current, coding := d.coding.endRow }

/-- Reads one regular word and rebuilds its sample (R66). Absent where the bits run out. -/
def decodeRegular (p : DecodeShape) (d : Decoding) : Option Decoding :=
  let s := d.coding
  let n := neighbours s
  let cls := activityClass (activity n)
  let ctx := s.regular[cls]
  (readWord regularEscapeBits (riceRegular ctx) d.unread).map fun (m, used, rest) =>
    if 510 < m then { d with malformed := true }
    else
      Decoding.closeRow p
        { d with unread := rest
                 coding := { s with bitCount := s.bitCount + used
                                    regular := s.regular.set cls (ctx.update m)
                                    current := s.current ++
                                      [reconstruct p.tol (prediction n) (unmapResidual m)]
                                    breakValue := none } }

/-- Reads one run word and sets its samples (R66). Absent where the bits run out. -/
def decodeRun (p : DecodeShape) (d : Decoding) : Option Decoding :=
  let s := d.coding
  let v := (neighbours s).a
  let left := p.width - s.current.length
  (readWord runEscapeBits (riceRun s.run) d.unread).map fun (len, used, rest) =>
    if left < len then { d with malformed := true }
    else
      Decoding.closeRow p
        { d with unread := rest
                 coding := { s with bitCount := s.bitCount + used
                                    run := s.run.update len
                                    current := s.current ++ List.replicate len v
                                    breakValue := if len < left then some v else none } }

/-- Whether the last sample has been rebuilt. -/
def Decoding.rebuilt (p : DecodeShape) (d : Decoding) : Bool := p.lines ≤ d.coding.row

/-- Decodes as far as the fed bits reach. Every word takes at least one bit, so the number of fed bits
bounds the words. -/
def decodeOn (p : DecodeShape) : Nat → Decoding → Decoding
  | 0, d => d
  | fuel + 1, d =>
    if d.malformed || d.rebuilt p then d
    else
      match (if d.coding.breakValue.isSome ∨ activity (neighbours d.coding) ≠ 0
             then decodeRegular p d else decodeRun p d) with
      | none => d
      | some d' => decodeOn p fuel d'

/-- The stored units a plane-band spans (R33). -/
def unitCount (offset length : Nat) : Nat := (offset + length - 1) / 256 - offset / 256 + 1

/-- Whether every stored byte of a plane-band has been read. -/
def Decoding.allRead (e : IndexEntry) (d : Decoding) : Bool :=
  unitCount e.offset e.length ≤ d.unitsRead

/-- Feeds the stored bytes of one more unit (R93). A word that still needs a bit when the last stored
byte is in needs a bit beyond 8 × stored length and is malformed (Table 3-10). -/
def Decoding.feed (p : DecodeShape) (e : IndexEntry) (bytes : List Byte) (d : Decoding) : Decoding :=
  let d := { d with unitsRead := d.unitsRead + 1
                    coding := { d.coding with check := bytes.foldl crc16Byte d.coding.check } }
  match e.mode with
  | .raw => { d with samples := d.samples ++ bytes }
  | .coded =>
    let d := { d with unread := d.unread ++ bytes.flatMap byteBits }
    let d := decodeOn p d.unread.length d
    if d.allRead e && !d.rebuilt p then { d with malformed := true } else d

/-- The two outcomes of decoding a plane-band (R68). -/
inductive Verdict where
  | verified (samples : List Byte)
  | damage
  deriving DecidableEq, Repr

/-- What the check says once every stored byte is in (R65). -/
def Decoding.checked (e : IndexEntry) (d : Decoding) : Verdict :=
  if d.coding.check = e.check then .verified d.samples else .damage

/-- The outcome of a plane-band under way, absent while it needs more bytes (R67, R68, R93). -/
def Decoding.verdict (p : DecodeShape) (d : Decoding) : Option Verdict :=
  match d.entry with
  | none => none
  | some e =>
    match e.mode with
    | .raw => if d.allRead e then some (d.checked e) else none
    | .coded =>
      if d.malformed then some .damage
      else if d.rebuilt p then
        if ceilDiv d.coding.bitCount 8 < e.length then some .damage
        else if d.allRead e then some (d.checked e) else none
      else none

/-- Whether an index entry passes the first three findings of Table 3-10 (R67, R92). -/
def entryGood (p : DecodeShape) (streamLength : Nat) (e : IndexEntry) : Bool :=
  e.length ≠ 0 && e.length ≤ p.width * p.lines && e.offset + e.length ≤ streamLength &&
    (e.mode == .coded || e.length == p.width * p.lines)

end Sys2Proof.Machine
end

