-- ==== Sys2Proof/Machine/Operands.lean ====
section
/-! DEFINITION. What the parameters of the commands stand for (R181), the geometry of a page (R2), and
the checks the commands make on their parameters. -/

namespace Sys2Proof.Machine

/-! ## Geometry (R2) -/

/-- The shape of a page as its record has it. -/
def PageRecord.shape (r : PageRecord) : Shape where
  planes     := r.planes
  width      := r.width
  height     := r.height
  bandHeight := r.bandHeight
  tolerances := r.tolerances

/-- The band count: ceil(H / B) (R2). -/
def Shape.bands (p : Shape) : Nat := ceilDiv p.height p.bandHeight

/-- The number of positions: bands × P (R2). -/
def Shape.positions (p : Shape) : Nat := p.bands * p.planes

/-- The line count of a band (R2). -/
def Shape.bandLines (p : Shape) (band : Nat) : Nat :=
  if band + 1 < p.bands then p.bandHeight else p.height - (p.bands - 1) * p.bandHeight

/-- The tolerance of a plane. -/
def Shape.tol (p : Shape) (plane : Nat) : Nat := p.tolerances.toList.getD plane 0

/-- The raw size of a plane-band of a band (R2). -/
def Shape.raw (p : Shape) (band : Nat) : Nat := p.width * p.bandLines band

/-- What a decoder knows of the plane-band at a band and plane (R45). -/
def Shape.decode (p : Shape) (band plane : Nat) : DecodeShape :=
  ⟨p.width, p.bandLines band, p.tol plane⟩

/-- Whether the positions of the page are all committed (R9). -/
def PageRecord.allCommitted (r : PageRecord) : Bool := r.committed == r.shape.positions

/-! ## Tolerances (R181) -/

/-- The tolerance of plane `j` in a parameter field: six values of four bits, plane 0 highest. -/
def toleranceNibble (t : BitVec 24) (j : Nat) : Nat := t.toNat / 16 ^ (5 - j) % 16

/-- The tolerances a page is opened with: 0 at planes at or above P (R1). -/
def openTolerances (planes : Nat) (t : BitVec 24) : Vector Nat 6 :=
  let v := fun j => if j < planes then toleranceNibble t j else 0
  ⟨#[v 0, v 1, v 2, v 3, v 4, v 5], rfl⟩

/-- The tolerances packed as in OPEN_PAGE (R182). -/
def packTolerances (v : Vector Nat 6) : List Byte :=
  match v.toList with
  | [t0, t1, t2, t3, t4, t5] =>
    [BitVec.ofNat 8 (16 * t0 + t1), BitVec.ofNat 8 (16 * t2 + t3), BitVec.ofNat 8 (16 * t4 + t5)]
  | _ => []

/-! ## OPEN_PAGE (R1) -/

/-- Whether the parameters of an OPEN_PAGE lie in the ranges of Table 1-1. -/
def openParamsGood (p : OpenParams) : Bool :=
  let planes := p.planes.toNat
  let w := p.width.toNat
  let h := p.height.toNat
  (1 ≤ planes && planes ≤ 6) && (16 ≤ w && w ≤ 16384) && (16 ≤ h && h ≤ 16384) &&
    (p.bandHeight == 8 || p.bandHeight == 16) &&
    (List.range planes).all (fun j => toleranceNibble p.tolerances j ≤ 7) &&
    w * h * planes ≤ 536870912

/-- The record of a page just opened (R6). -/
def openedRecord (p : OpenParams) : PageRecord :=
  { PageRecord.free with
    state      := .filling
    planes     := p.planes.toNat
    width      := p.width.toNat
    height     := p.height.toNat
    bandHeight := p.bandHeight.toNat
    tolerances := openTolerances p.planes.toNat p.tolerances
    retention  := p.retention }

/-! ## VIEW (Tables 7-1 and 7-2) -/

/-- The planes a mask names, ascending; the least significant bit is plane 0 (R181). -/
def maskPlanes (mask : Byte) : List Nat := (List.range 8).filter fun j => mask.getLsbD j

/-- The depth a byte names, absent for any other value (R181). -/
def depthOf (b : Byte) : Option Depth :=
  [Depth.full, .draft4].find? fun d => (match d with | .full => 0#8 | .draft4 => 1#8) = b

/-- The lowest of a band and an optional mark. -/
def lowerOf (b : Nat) : Option Nat → Nat
  | none => b
  | some n => min b n

/-- The usable end of a page (R136, Table 7-2); 0 in the states a view is refused in. -/
def PageRecord.usableEnd (r : PageRecord) : Nat :=
  match r.state with
  | .sealed => r.shape.bands
  | .damaged => r.firstDamaged.getD 0
  | .torn => lowerOf (r.committed / r.planes) r.firstDamaged
  | _ => 0

/-- The answer of the first five checks of VIEW, which read the frame alone (Table 7-1). -/
def viewFrameGood (v : ViewParams) : Bool :=
  v.planeMask != 0 && (v.decimation == 1 || v.decimation == 2 || v.decimation == 4) &&
    (depthOf v.depth).isSome && v.firstBand.toNat ≤ 2047 &&
    (1 ≤ v.bandCount.toNat && v.bandCount.toNat ≤ 2048)

/-- The answer VIEW gets if a check of Table 7-1 fails, the first that does. -/
def viewRefusal (v : ViewParams) (r : PageRecord) : Option Result :=
  if !viewFrameGood v then some .param
  else if r.state = .free then some .noPage
  else if !(r.state = .sealed || r.state = .damaged || r.state = .torn) then some .state
  else if r.releasePending then some .state
  else if (maskPlanes v.planeMask).any fun p => r.planes ≤ p then some .param
  else if r.usableEnd ≤ v.firstBand.toNat then some .state
  else none

/-! ## Checks against a page record -/

/-- The answer to OPEN_PAGE with the continue flag if a check of Table 1-6 fails, the first that does. -/
def continueRefusal (h : Handle) (r : PageRecord) : Option Result :=
  if h = 0xFF then some .param
  else if r.state = .free then some .noPage
  else if r.state ≠ .torn then some .state
  else if r.holdReason.isSome then some .held
  else if r.releasePending then some .state
  else if r.references ≠ 0 then some .state
  else if r.firstDamaged.isSome then some .state
  else none

/-- The answer to ENQUEUE if a check of Table 6-2 fails, the first that does. -/
def enqueueRefusal (copies : Nat) (queueLength : Nat) (r : PageRecord) : Option Result :=
  if copies < 1 ∨ 8 < copies then some .param
  else if r.state = .free then some .noPage
  else if r.state ≠ .sealed then some .state
  else if r.releasePending then some .state
  else if r.holdReason.isSome then some .held
  else if 64 < queueLength + copies then some .queueFull
  else none

/-- The answer to REBIND if the new page fails a check, the first it fails (R112). -/
def rebindRefusal (r : PageRecord) : Option Result :=
  if r.state = .free then some .noPage
  else if r.state ≠ .sealed then some .state
  else if r.releasePending then some .state
  else if r.holdReason.isSome then some .held
  else none

/-- The answer to START if a check of Table 6-4 on the head page fails, the first that does. -/
def startRefusal (startBand lead trail : Nat) (r : PageRecord) : Option Result :=
  if r.holdReason.isSome then some .held
  else if r.state ≠ .sealed then some .state
  else if r.shape.bands ≤ startBand ∨ 4095 < lead ∨ 4095 < trail then some .param
  else none

/-- The answer to HOLD if it is refused (R14). -/
def holdRefusal (reason : Byte) (r : PageRecord) : Option Result :=
  if reason = 0 then some .param
  else if r.state = .free ∨ r.state = .filling ∨ r.releasePending then some .state
  else none

/-! ## Line blocks (R77, R175) -/

/-- How many data bytes the header of a line block announces (R175). -/
def announcedData (depth : Byte) (count : Word16) : Nat :=
  if depth = 0x01 then ceilDiv count.toNat 2 else count.toNat

/-! ## The thermal monitor (R164 to R166) -/

/-- The sensor's value rounded to the nearest whole degree, halves up, and clamped into −40..150 (R164). -/
def readingOf (v : SensorValue) : Int :=
  let r := (2 * v.numerator + v.denominator) / (2 * v.denominator)
  if r < -40 then -40 else if 150 < r then 150 else r

/-- The class a reading falls in (R165). -/
def classOf (reading : Int) : Thermal :=
  if reading < 45 then .cool else if reading < 85 then .normal else if reading < 105 then .warm else .hot

/-- The order of the classes. -/
def Thermal.rank : Thermal → Nat
  | .cool => 0
  | .normal => 1
  | .warm => 2
  | .hot => 3

/-- The lower bound of a class; COOL has none (R166). -/
def Thermal.lowerBound : Thermal → Option Int
  | .cool => none
  | .normal => some 45
  | .warm => some 85
  | .hot => some 105

/-- The class after a reading, from the class before and whether a reading was there before (R165, R166). -/
def nextClass (first : Bool) (now : Thermal) (reading : Int) : Thermal :=
  let falls := classOf reading
  if first then falls
  else if now.rank < falls.rank then falls
  else if falls.rank < now.rank then
    match now.lowerBound with
    | some bound => if reading ≤ bound - 3 then falls else now
    | none => now
  else now

/-- The refresh interval of a class, in units of 10 ns (Table 8-4). -/
def Thermal.interval : Thermal → Nat
  | .cool => 1560
  | .normal => 780
  | .warm => 390
  | .hot => 195

end Sys2Proof.Machine
end

