-- ==== Sys2Proof/Machine/Flags.lean ====
section
/-! DEFINITION. The flag bytes of the payloads, the sticky flags of a port, and the payloads that show
a record or the whole part (R182, R187, R188). -/

namespace Sys2Proof.Machine

/-- A port with its STRAY flag set (R186). -/
def PortRec.setStray (r : PortRec) : PortRec := { r with stray := true }

/-- A port with its FRAME_CHECK flag set (R185). -/
def PortRec.setFrameCheck (r : PortRec) : PortRec := { r with frameCheck := true }

/-- A port with both sticky flags clear (R187). -/
def PortRec.clearFlags (r : PortRec) : PortRec := { r with frameCheck := false, stray := false }

/-- Bits given least significant first, as a byte. -/
def flagByte (bits : List Bool) : Byte := BitVec.ofNat 8 (bits.foldr (fun b n => b.toNat + 2 * n) 0)

/-- The flag byte of a page: held, release pending, damaged, from the least significant bit (R182). -/
def PageRecord.flags (r : PageRecord) : Byte :=
  flagByte [r.holdReason.isSome, r.releasePending, r.firstDamaged.isSome]

/-- The flag byte of STATUS: FRAME_CHECK, STRAY, REFRESH_MISSED, from the least significant bit (R188). -/
def statusFlags (r : PortRec) (missed : Bool) : Byte := flagByte [r.frameCheck, r.stray, missed]

/-- The two bytes of a signed 16-bit number. -/
def signed16 (x : Int) : List Byte := field16 (BitVec.ofInt 16 x).toNat

/-- The 12-byte STATUS payload of a port (Table 9-14). -/
def statusPayload (r : PortRec) (s : State) : List Byte :=
  [r.state.code, statusFlags r s.sched.refreshMissed, s.mode.code, s.thermal.code] ++
    (match s.lastReading with
     | none => [0x80, 0x00]
     | some t => signed16 t) ++
    [BitVec.ofInt 8 s.sched.debt] ++ field16 (freeCount s.freeSet) ++ field16 s.freeRecords ++
    [BitVec.ofNat 8 s.queue.length]

/-- The QUERY_PAGE payload of a record (Table 9-10, R22). -/
def queryPayload (h : Handle) (extentStart : Nat) (r : PageRecord) : List Byte :=
  [h, r.state.code, r.flags, BitVec.ofNat 8 r.planes, BitVec.ofNat 8 r.bandHeight] ++
    field16 r.width ++ field16 r.height ++ field16 r.shape.bands ++ packTolerances r.tolerances ++
    [retentionCode r.retention] ++ field16 r.committed ++ field32 r.streamLength ++
    [BitVec.ofNat 8 r.references, r.holdReason.getD 0xFF] ++ field16 (r.firstDamaged.getD 0xFFFF) ++
    field16 r.extents.length ++ field16 extentStart ++
    ((r.extents.drop extentStart).take 256).flatMap field16

/-- One entry of a LIST_PAGES payload (Table 9-10). -/
def listEntry (h : Handle) (r : PageRecord) : List Byte := [h, r.state.code, r.flags]

end Sys2Proof.Machine
end

