-- ==== Sys2Proof/Machine/Ops.lean ====
section
/-! DEFINITION. The shared operations over the state: the ports, the page records, the store scheduler,
rest control, and the judgement every command frame passes first. -/

namespace Sys2Proof.Machine

/-! ## Ports -/

/-- The port on a link. -/
def State.port (s : State) : Port → PortRec
  | .compose => s.compose
  | .press => s.press
  | .proof => s.proof

def State.setPort (s : State) (p : Port) (r : PortRec) : State :=
  match p with
  | .compose => { s with compose := r }
  | .press => { s with press := r }
  | .proof => { s with proof := r }

def State.updatePort (s : State) (p : Port) (f : PortRec → PortRec) : State := s.setPort p (f (s.port p))

/-- A frame at the tail of a port's transmit list; a DOWN port takes none (R174). -/
def PortRec.send (r : PortRec) (f : Frame) : PortRec :=
  if r.state = .down then r else { r with transmit := r.transmit ++ [f] }

/-- A port in another state. -/
def PortRec.withState (r : PortRec) (st : PortState) : PortRec := { r with state := st }

/-- A frame produced at a port joins the tail of its transmit list (R174). -/
def State.send (s : State) (p : Port) (f : Frame) : State := s.updatePort p (·.send f)

/-- A port goes to another state (Table 9-3). -/
def State.setPortState (s : State) (p : Port) (st : PortState) : State :=
  s.updatePort p (·.withState st)

/-- Stray traffic reached a port (R186). -/
def State.markStray (s : State) (p : Port) : State := s.updatePort p (·.setStray)

/-- The reply to a command, with the port's state as it stands after the command's own change (R177). -/
def State.reply (s : State) (p : Port) (c : Byte) (result : Result) (payload : List Byte) : State :=
  s.send p (.reply c result (s.port p).state payload)

/-- The stray line block's answer (R75, R121, R141): REJECT_ORDER, and STRAY set. -/
def State.strayBlock (s : State) (p : Port) : State := (s.send p (.token .rejectOrder)).markStray p

/-- A port's outstanding command becomes `code` (R183). -/
def PortRec.take (r : PortRec) (code : Byte) : PortRec := { r with outstanding := some code }

/-- The judgement of a command frame that passed its frame check (Table 9-11, R183): a port in DOWN
receives nothing; a frame that finds a command outstanding is discarded and sets STRAY; a command not
allowed on the port or in its state is answered ILLEGAL; the rest go to the command's rule `body`. -/
def State.judge (s : State) (p : Port) (c : Cmd) (body : State → State) : State :=
  if (s.port p).state = .down then s
  else if (s.port p).outstanding.isSome then s.markStray p
  else
    let taken := s.updatePort p (·.take c.code)
    if c.allowed p (s.port p).state then body taken else taken.reply p c.code .illegal []

/-! ## The page directory -/

/-- The record of a handle. -/
def State.page (s : State) (h : Handle) : PageRecord := s.pages[h.toNat]

def State.setPage (s : State) (h : Handle) (r : PageRecord) : State :=
  { s with pages := s.pages.set h.toNat r }

def State.updatePage (s : State) (h : Handle) (f : PageRecord → PageRecord) : State :=
  s.setPage h (f (s.page h))

/-- Every handle, ascending. -/
def allHandles : List Handle := (List.range 256).map (BitVec.ofNat 8)

/-- Every record changed alike. -/
def mapRecords (f : PageRecord → PageRecord) (v : Vector PageRecord 256) : Vector PageRecord 256 :=
  ⟨(v.toList.map f).toArray, by simp⟩

/-- Extents given back to the free set (R41). -/
def State.giveBack (s : State) (es : List Nat) : State :=
  { s with freeSet := returnExtents es s.freeSet }

/-- The freeing of a record (R19): its extents return, the record takes its FREE reset values, and the
count of FREE records rises by one. -/
def State.freePage (s : State) (h : Handle) : State :=
  { (s.giveBack (s.page h).extents).setPage h PageRecord.free with freeRecords := s.freeRecords + 1 }

/-- A record with `n` references fewer. -/
def PageRecord.dropRefs (r : PageRecord) (n : Nat) : PageRecord :=
  { r with references := r.references - n }

/-- `n` references on a page end (R17): a release-pending page whose count reaches 0 is freed in the
same event (R19). -/
def State.dropRefs (s : State) (h : Handle) (n : Nat) : State :=
  let r := (s.page h).dropRefs n
  if n = 0 then s
  else if r.releasePending ∧ r.references = 0 then (s.setPage h r).freePage h
  else s.setPage h r

/-- `n` references on a page begin (R17). -/
def State.addRefs (s : State) (h : Handle) (n : Nat) : State :=
  s.updatePage h fun r => { r with references := r.references + n }

/-- A record after a damage report at band `n` (R12). -/
def PageRecord.markDamaged (r : PageRecord) (n : Nat) : PageRecord :=
  { r with firstDamaged := some (lowerOf n r.firstDamaged)
           state := if r.state = .sealed then .damaged else r.state }

/-- A damage report to the directory (R12, R95). -/
def State.reportDamage (s : State) (h : Handle) (n : Nat) : State :=
  s.updatePage h (·.markDamaged n)

/-! ## The store scheduler (Chapter 8) -/

/-- A refresh granted: the debt falls by 1 in the grant event (R156). -/
def Scheduler.grantRefresh (c : Scheduler) : Scheduler :=
  { c with grant := some .refresh, debt := c.debt - 1 }

/-- The grant the scheduler makes while the store is free: the first eligible candidate of Table 8-2
(R152, R159, R161, R162). -/
def Scheduler.grantNext (c : Scheduler) (t : Thermal) : Scheduler :=
  if c.grant.isSome ∨ c.selfRetention then c
  else if c.debt = 8 then c.grantRefresh
  else
    match c.pressReq with
    | some r => { c with grant := some (.press r true), pressReq := none }
    | none =>
      if 1 ≤ c.debt then c.grantRefresh
      else
        match (if t = .hot then none else c.encoderReq) with
        | some w => { c with grant := some (.encoder w true), encoderReq := none }
        | none =>
          match (if t = .hot then none else c.proofReq) with
          | some r => { c with grant := some (.proof r true), proofReq := none }
          | none => if -8 < c.debt ∧ ¬ c.drain then c.grantRefresh else c

/-- The grant in progress completes: the store is free (R153). -/
def Scheduler.release (c : Scheduler) : Scheduler := { c with grant := none }

/-- A grant of a read by this slot is handed to no one from now on (R94). -/
def Grant.orphanRead (k : DecodeSlot) : Grant → Grant
  | .press r live => .press r (live && r.slot != k)
  | .proof r live => .proof r (live && r.slot != k)
  | g => g

/-- A grant of an encoder write is handed to no one from now on (R35). -/
def Grant.orphanWrite : Grant → Grant
  | .encoder w _ => .encoder w false
  | g => g

/-- A decode slot gives up its plane-band: its waiting read is withdrawn and a granted one is handed to
no one (R94, R151). -/
def Scheduler.withdrawRead (c : Scheduler) (k : DecodeSlot) : Scheduler :=
  { c with grant := c.grant.map (·.orphanRead k)
           pressReq := c.pressReq.filter (·.slot != k)
           proofReq := c.proofReq.filter (·.slot != k) }

/-- The encoder gives up its commit: its waiting write is withdrawn and a granted one is handed to no
one (R84, R151). -/
def Scheduler.withdrawWrite (c : Scheduler) : Scheduler :=
  { c with grant := c.grant.map (·.orphanWrite), encoderReq := none }

/-- An expiry of the refresh timer (R155, R157): the debt rises, or REFRESH_MISSED is set at 8, and the
timer restarts with the interval of the class as it stands. -/
def Scheduler.expire (c : Scheduler) (t : Thermal) : Scheduler :=
  if c.debt < 8 then { c with debt := c.debt + 1, interval := t.interval }
  else { c with refreshMissed := true, interval := t.interval }

/-- The scheduler leaves self-retention (R162): debt 1, the timer started at the class's interval. -/
def Scheduler.leaveRetention (c : Scheduler) (t : Thermal) : Scheduler :=
  { c with selfRetention := false, debt := 1, timerRunning := true, interval := t.interval }

/-- The scheduler enters self-retention (R162): the timer stops and the debt is frozen. -/
def Scheduler.enterRetention (c : Scheduler) : Scheduler :=
  { c with selfRetention := true, drain := false, timerRunning := false }

def State.updateSched (s : State) (f : Scheduler → Scheduler) : State := { s with sched := f s.sched }

/-- The scheduler makes its next grant if the store is free (R152). -/
def State.grantNext (s : State) : State := s.updateSched (·.grantNext s.thermal)

/-! ## Rest control (Chapter 10) -/

/-- Whether a page is protected at rest (R191). -/
def PageRecord.isProtected (r : PageRecord) : Bool :=
  r.retention == .keep || r.holdReason.isSome || r.references ≠ 0

/-- The retained set: segment 0, and every segment that holds an extent of a protected page (R191). -/
def State.retainedSegments (s : State) : List Nat :=
  (List.range 8).filter fun g =>
    g == 0 || s.pages.toList.any fun r => r.isProtected && r.extents.any fun e => segmentOf e == g

/-- Whether rest entry turns a page LOST (R13). -/
def PageRecord.losesAt (r : PageRecord) (retained : List Nat) : Bool :=
  (r.state == .sealed || r.state == .torn || r.state == .damaged) && r.retention == .volatile &&
    r.holdReason.isNone && r.references == 0 &&
    r.extents.any fun e => !(retained.contains (segmentOf e))

/-- A record after rest entry (R13). -/
def PageRecord.afterRest (retained : List Nat) (r : PageRecord) : PageRecord :=
  if r.losesAt retained then { r with state := .lost, extents := [], streamLength := 0 } else r

/-- The directory's part of rest entry: the lost pages, and their extents back in the free set (R13). -/
def State.losePages (s : State) (retained : List Nat) : State :=
  { s with pages := mapRecords (·.afterRest retained) s.pages
           freeSet := returnExtents
             ((s.pages.toList.filter (·.losesAt retained)).flatMap (·.extents)) s.freeSet }

/-- The completion of rest entry (R191): the retained segments hold what they held, and the contents of
the others become undefined (R38, log entry 1). -/
def State.completeRest (s : State) : State :=
  let kept := s.retainedSegments
  { s.losePages kept with
    sched := s.sched.enterRetention
    mode := .retained
    retained := some kept
    store := s.store.keepSegments kept
    undefinedDraws := redraw kept s.undefinedDraws }

/-- The drain is complete when it is requested, the debt is 0 or less and the store is free; rest entry
completes in that event (R161, R191). -/
def State.checkDrain (s : State) : State :=
  if s.sched.drain ∧ s.sched.debt ≤ 0 ∧ s.sched.grant = none then s.completeRest else s

/-- What the scheduler does in an event that may leave the store free: the next grant, and the report
that a drain is complete. -/
def State.settle (s : State) : State := s.grantNext.checkDrain

/-- A port that is RESTING or DOWN. -/
def PortRec.quiet (r : PortRec) : Bool := r.state == .resting || r.state == .down

/-- The rest condition: every port RESTING or DOWN and at least one RESTING (R190). -/
def State.restCondition (s : State) : Bool :=
  s.compose.quiet && s.press.quiet && s.proof.quiet &&
    (s.compose.state == .resting || s.press.state == .resting || s.proof.state == .resting)

/-- Rest control judges the rest condition (R190): if it holds in ACTIVE, the mode becomes
ENTERING_REST and the scheduler is asked to drain. -/
def State.judgeRest (s : State) : State :=
  if s.mode = .active ∧ s.restCondition then
    State.checkDrain { s with mode := .enteringRest, sched := { s.sched with drain := true } }
  else s

/-- What a wake or a device reset does to the store, by mode (R193, R194). -/
def State.wakeStore (s : State) : State :=
  match s.mode with
  | .active => s
  | .enteringRest =>
    State.grantNext { s with mode := .active, sched := { s.sched with drain := false } }
  | .retained =>
    State.grantNext
      { s with mode := .active, retained := none, sched := s.sched.leaveRetention s.thermal }

end Sys2Proof.Machine
end

