-- ==== Sys2Proof/Machine/Encoder.lean ====
section
/-! DEFINITION. The band encoder: what it expects, how it codes, commits, refuses and is cancelled
(04_composing_pages.md). -/

namespace Sys2Proof.Machine

/-- The encoder's work on a page that has just become FILLING, with `committed` of `positions`
positions stored (R73, R74). -/
def EncoderWork.begin (h : Handle) (committed positions : Nat) : EncoderWork where
  phase       := if committed = positions then .complete else .ready
  handle      := h
  expected    := if committed = positions then none else some committed
  stagedLines := 0
  staging     := []
  output      := []
  coding      := none
  deferred    := none

/-- The encoder's buffers and coding state emptied, its phase and expected position as given (R71). -/
def EncoderWork.emptied (w : EncoderWork) (phase : EncoderPhase) (expected : Option Nat) : EncoderWork :=
  { w with phase := phase, expected := expected, stagedLines := 0, staging := [], output := [], coding := none }

/-! ## The expected line (R72) -/

/-- The band of the expected position. -/
def EncoderWork.band (w : EncoderWork) (p : Shape) : Nat := w.expected.getD 0 / p.planes

/-- The plane of the expected position. -/
def EncoderWork.plane (w : EncoderWork) (p : Shape) : Nat := w.expected.getD 0 % p.planes

/-- The expected page line. -/
def EncoderWork.line (w : EncoderWork) (p : Shape) : Nat := w.band p * p.bandHeight + w.stagedLines

/-! ## Sealing and abandoning (R9, R10, R86, R87) -/

/-- SEAL_PAGE judged against the committed count (R9). -/
def State.sealNow (s : State) (w : EncoderWork) : State :=
  if (s.page w.handle).allCommitted then
    (({ s.updatePage w.handle (fun r => { r with state := .sealed }) with encoder := none }).setPortState
      .compose .idle).reply .compose Cmd.sealPage.code .ok []
  else s.reply .compose Cmd.sealPage.code .incomplete []

/-- ABANDON_PAGE carried out: the page freed, the port IDLE, the encoder IDLE (R10, R87). -/
def State.abandonNow (s : State) (w : EncoderWork) : State :=
  (({ s.freePage w.handle with encoder := none }).setPortState .compose .idle).reply
    .compose Cmd.abandonPage.code .ok []

/-- A reply that waited for the token owed is judged now (R81, R83, R86, R87). -/
def State.judgeDeferred (s : State) : State :=
  match s.encoder with
  | none => s
  | some w =>
    let s' := { s with encoder := some { w with deferred := none } }
    match w.deferred with
    | none => s
    | some .sealPage => s'.sealNow w
    | some .abandonPage => s'.abandonNow w

/-! ## Lines (R78 to R80) -/

/-- The encoder's work once a line at the expected position has been taken (R78, R80). -/
def EncoderWork.takeLine (w : EncoderWork) (p : Shape) (line : List Byte) : EncoderWork :=
  { w with
    staging := w.staging ++ line
    stagedLines := w.stagedLines + 1
    output := if w.stagedLines = 0 then [] else w.output
    coding := if w.stagedLines = 0 then some Coding.initial else w.coding
    phase := if w.stagedLines + 1 = p.bandLines (w.band p) then .committing .finishing else .lineCoding }

/-- The encoder's work once the last line staged has been coded, or only staged after a stop (R78, R79). -/
def EncoderWork.codeLast (w : EncoderWork) (p : Shape) : EncoderWork :=
  let line := w.staging.drop ((w.stagedLines - 1) * p.width)
  let coded := encodeLine (p.tol (w.plane p)) (p.raw (w.band p)) line (w.coding.getD Coding.initial) w.output
  { w with coding := some coded.1, output := coded.2 }

/-! ## Commits (R80 to R84) -/

/-- The stored bytes of the plane-band in the encoder's buffers (R61). -/
def EncoderWork.storedBytes (w : EncoderWork) : StorageMode → List Byte
  | .coded => codedBytes w.output
  | .raw => w.staging

/-- The storage mode of a finished plane-band: RAW exactly when coding stopped (R61, R62). -/
def EncoderWork.storageMode (w : EncoderWork) : StorageMode :=
  if (w.coding.getD Coding.initial).stopped then .raw else .coded

/-- The check of a finished plane-band: the one accumulated, taken on over the padded last byte, or
the one over the staged samples (R64). -/
def EncoderWork.storedCheck (w : EncoderWork) : StorageMode → Word16
  | .coded => ((codedBytes w.output).drop (w.output.length / 8)).foldl crc16Byte
      (w.coding.getD Coding.initial).check
  | .raw => crc16 w.staging

/-- The outcome the first stage puts into the commit record, for a page whose stream is `stream` bytes
long (R80). -/
def EncoderWork.outcome (w : EncoderWork) (stream : Nat) : CommitOutcome :=
  let mode := w.storageMode
  let length := (w.storedBytes mode).length
  { mode := mode
    length := length
    check := w.storedCheck mode
    offset := stream
    extentsTaken := []
    writesRemaining := unitCount stream length + 1 }

/-- How many new extents a commit needs (R81). -/
def extentsNeeded (r : PageRecord) (length : Nat) : Nat :=
  ceilDiv (r.streamLength + length) 65536 - r.extents.length

/-- The next write of a commit: stored bytes in ascending stream order, one unit each, then the index
entry (R34, R82). -/
def commitWrite (w : EncoderWork) (o : CommitOutcome) (r : PageRecord) : Option WriteReq :=
  match o.writesRemaining with
  | 0 => none
  | 1 =>
    let a := entryByte w.handle (w.expected.getD 0)
    some ⟨some (unitOfByte a), a % 256, .entry ⟨o.offset, o.length, o.mode, o.check⟩⟩
  | n + 2 =>
    let u := o.offset / 256 + (unitCount o.offset o.length - (n + 1))
    let first := max o.offset (u * 256)
    let stop := min (o.offset + o.length) ((u + 1) * 256)
    some ⟨streamUnit r.extents u, first - u * 256,
      .bytes (((w.storedBytes o.mode).drop (first - o.offset)).take (stop - first))⟩

/-- Whether the grant in progress is the encoder's. -/
def Grant.isWrite : Grant → Bool
  | .encoder _ _ => true
  | _ => false

/-- The encoder presents the next write of its commit, unless one of its own is waiting or in progress
(R82, R151); its arrival lets a free store make a grant (R152). A write of a cancelled commit that is still
in progress holds back the first write of a new commit until it completes (DEDUCED, log entry 18). -/
def State.presentWrite (s : State) : State :=
  match s.encoder with
  | some w =>
    match w.phase with
    | .committing (.writing o) =>
      if s.sched.encoderReq.isSome ∨ s.sched.grant.any (·.isWrite) then s
      else
        match commitWrite w o (s.page w.handle) with
        | none => s
        | some q => (s.updateSched fun c => { c with encoderReq := some q }).grantNext
    | _ => s
  | none => s

/-- A record after one more commit has completed (R4, R83). -/
def PageRecord.commitOne (r : PageRecord) (length : Nat) : PageRecord :=
  { r with committed := r.committed + 1, streamLength := r.streamLength + length }

/-- The expected position after a commit: absent once every position is committed (R72). -/
def PageRecord.expectedPosition (r : PageRecord) : Option Nat :=
  if r.allCommitted then none else some r.committed

/-- The encoder state after a commit: COMPLETE once every position is committed (R72, R83). -/
def PageRecord.encoderPhase (r : PageRecord) : EncoderPhase :=
  if r.allCommitted then .complete else .ready

/-- The completion of a commit (R83): the counts advance, the buffers empty, ACCEPT is sent, and a
deferred reply is judged. -/
def State.completeCommit (s : State) (w : EncoderWork) (o : CommitOutcome) : State :=
  let r := (s.page w.handle).commitOne o.length
  (({ s.setPage w.handle r with
      encoder := some (w.emptied r.encoderPhase r.expectedPosition) }).send
    .compose (.token .accept)).judgeDeferred

/-- The refusal of a commit's extent take (R81): the plane-band is sent back to its first line with
REJECT_FULL, and a deferred reply is judged. -/
def State.refuseCommit (s : State) (w : EncoderWork) : State :=
  (({ s with encoder := some (w.emptied .ready w.expected) }).send
    .compose (.token .rejectFull)).judgeDeferred

/-- A write of the commit in flight has completed (R82, R83). -/
def State.writeDone (s : State) : State :=
  match s.encoder with
  | some w =>
    match w.phase with
    | .committing (.writing o) =>
      let o' := { o with writesRemaining := o.writesRemaining - 1 }
      if o'.writesRemaining = 0 then s.completeCommit w o'
      else State.presentWrite { s with encoder := some { w with phase := .committing (.writing o') } }
    | _ => s
  | none => s

/-- The first stage of a commit ends and its extent take is judged (R80, R81). -/
def State.takeForCommit (s : State) (w : EncoderWork) : State :=
  let r := s.page w.handle
  let w' := w.codeLast r.shape
  let o := w'.outcome r.streamLength
  match takeExtents r.retention (extentsNeeded r o.length) s.freeSet with
  | none => s.refuseCommit w
  | some (es, f) =>
    State.presentWrite
      { s.setPage w.handle { r with extents := r.extents ++ es } with
        freeSet := f
        encoder := some { w' with phase := .committing (.writing { o with extentsTaken := es }) } }

/-- A record without the `n` extents at the tail of its list (R4). -/
def PageRecord.dropTail (r : PageRecord) (n : Nat) : PageRecord :=
  { r with extents := r.extents.take (r.extents.length - n) }

/-- The cancel of a commit in flight (R84, Table 4-4): its writes not granted are withdrawn, a granted
one is handed to no one, and the extents it took go back. -/
def State.cancelCommit (s : State) (w : EncoderWork) : State :=
  let s' := s.updateSched (·.withdrawWrite)
  match w.phase with
  | .committing (.writing o) =>
    (s'.giveBack o.extentsTaken).updatePage w.handle (·.dropTail o.extentsTaken.length)
  | _ => s'

/-- The FILLING page goes TORN and the encoder IDLE, on Compose link loss or device reset (R11, R89). -/
def State.tear (s : State) : State :=
  match s.encoder with
  | none => s
  | some w =>
    { (s.cancelCommit w).updatePage w.handle (fun r => { r with state := .torn }) with encoder := none }

end Sys2Proof.Machine
end

