-- ==== Sys2Proof/Machine/Compose.lean ====
section
/-! DEFINITION. The meanings of the Compose commands and of the encoder's events (Chapter 4), with the
rows of the directory that open, seal and abandon a page. -/

namespace Sys2Proof.Machine

open Host (Outcome)

/-! ## OPEN_PAGE (R6, R7, R73) -/

/-- The record OPEN_PAGE opens: the lowest FREE one for FFh, else the one named if it is FREE (R7). -/
def State.chooseRecord (s : State) (h : Handle) : Except Result Handle :=
  if h = 0xFF then
    match allHandles.find? fun k => (s.page k).state = .free with
    | some k => .ok k
    | none => .error .directoryFull
  else if (s.page h).state = .free then .ok h
  else .error .state

/-- A page opened under handle `h` (R6, R73). -/
def State.openAt (s : State) (h : Handle) (p : OpenParams) : State :=
  ({ s.setPage h (openedRecord p) with
      freeRecords := s.freeRecords - 1
      encoder := some (EncoderWork.begin h 0 (openedRecord p).shape.positions) }).setPortState
    .compose .inbound

/-- OPEN_PAGE once the port has taken it (R73). -/
def State.openPage (s : State) (port : Port) (p : OpenParams) : State :=
  if !openParamsGood p then s.reply port Cmd.openPage.code .param []
  else
    match s.chooseRecord p.handle with
    | .error r => s.reply port Cmd.openPage.code r []
    | .ok h => (s.openAt h p).reply port Cmd.openPage.code .ok [h]

def execOpenPage (port : Port) (p : OpenParams) (s : State) : Outcome State Fault Refusal :=
  .next (s.judge port .openPage (·.openPage port p))

/-! ## OPEN_PAGE with the continue flag (R8, R74) -/

/-- A TORN page made FILLING again at its committed count (R8, R74). -/
def State.continueAt (s : State) (h : Handle) : State :=
  let r := s.page h
  ({ s.setPage h { r with state := .filling } with
      encoder := some (EncoderWork.begin h r.committed r.shape.positions) }).setPortState
    .compose .inbound

def State.continuePage (s : State) (port : Port) (h : Handle) : State :=
  match continueRefusal h (s.page h) with
  | some r => s.reply port Cmd.openPage.code r []
  | none => (s.continueAt h).reply port Cmd.openPage.code .ok [h]

def execOpenPageContinue (port : Port) (h : Handle) (s : State) : Outcome State Fault Refusal :=
  .next (s.judge port .openPage (·.continuePage port h))

/-! ## SEAL_PAGE and ABANDON_PAGE (R86, R87) -/

/-- A reply left to the end of the commit or of the line coding in hand. -/
def State.defer (s : State) (w : EncoderWork) (d : DeferredReply) : State :=
  { s with encoder := some { w with deferred := some d } }

/-- SEAL_PAGE by encoder state (Table 4-5). With no encoder work, which no run has in INBOUND, it is
answered INCOMPLETE (log entry 14). -/
def State.sealPage (s : State) (port : Port) : State :=
  match s.encoder with
  | none => s.reply port Cmd.sealPage.code .incomplete []
  | some w =>
    match w.phase with
    | .committing _ => s.defer w .sealPage
    | _ => s.sealNow w

def execSealPage (port : Port) (s : State) : Outcome State Fault Refusal :=
  .next (s.judge port .sealPage (·.sealPage port))

/-- ABANDON_PAGE by encoder state (Table 4-6). With no encoder work, which no run has in INBOUND, the
port goes IDLE with nothing to free (log entry 14). -/
def State.abandonPage (s : State) (port : Port) : State :=
  match s.encoder with
  | none => (s.setPortState .compose .idle).reply port Cmd.abandonPage.code .ok []
  | some w =>
    match w.phase with
    | .committing _ => s.defer w .abandonPage
    | .lineCoding => s.defer w .abandonPage
    | _ => s.abandonNow w

def execAbandonPage (port : Port) (s : State) : Outcome State Fault Refusal :=
  .next (s.judge port .abandonPage (·.abandonPage port))

/-! ## LINE_BLOCK (R75 to R77, R121, R141) -/

/-- Whether a block's CRC-16 is good: it covers everything after the mark, and a block whose data is not
as long as its header announces fails it (R77, R175). -/
def lineBlockGood (b : LineBlock) : Bool :=
  b.data.length == announcedData b.depth b.count &&
    b.crc == crc16 (blockBody b.kind b.depth b.plane b.line.toNat b.count.toNat b.data)

/-- The token that refuses a line block in READY or COMPLETE, the first test it fails (Table 4-3). -/
def lineBlockRefusal (w : EncoderWork) (p : Shape) (b : LineBlock) : Option Token :=
  if !lineBlockGood b then some .rejectCheck
  else if w.phase ≠ .ready then some .rejectOrder
  else if b.kind ≠ BlockKind.page.code then some .rejectOrder
  else if b.depth ≠ Depth.full.code then some .rejectOrder
  else if b.plane.toNat ≠ w.plane p then some .rejectOrder
  else if b.line.toNat ≠ w.line p then some .rejectOrder
  else if b.count.toNat ≠ p.width then some .rejectOrder
  else none

/-- A line block at the Compose port in INBOUND (R76, R77). -/
def State.composeBlock (s : State) (w : EncoderWork) (b : LineBlock) : State :=
  match w.phase with
  | .lineCoding => s.markStray .compose
  | .committing _ => s.markStray .compose
  | _ =>
    let p := (s.page w.handle).shape
    match lineBlockRefusal w p b with
    | some t => s.send .compose (.token t)
    | none => { s with encoder := some (w.takeLine p b.data) }

/-- A line block arriving at a port that is not DOWN. -/
def State.lineBlock (s : State) (port : Port) (b : LineBlock) : State :=
  if port = .compose ∧ s.compose.state = .inbound then
    match s.encoder with
    | some w => s.composeBlock w b
    | none => s.strayBlock port
  else s.strayBlock port

def execLineBlock (port : Port) (b : LineBlock) (s : State) : Outcome State Fault Refusal :=
  .next (if (s.port port).state = .down then s else s.lineBlock port b)

/-! ## LINE_CODING_END and EXTENT_TAKE (R78 to R81) -/

/-- The coding of the taken line ends: READY, ACCEPT, and a deferred ABANDON_PAGE is judged (R78, R87). -/
def State.lineCoded (s : State) (w : EncoderWork) : State :=
  let w' := { w.codeLast (s.page w.handle).shape with phase := .ready }
  (({ s with encoder := some w' }).send .compose (.token .accept)).judgeDeferred

def execLineCodingEnd (s : State) : Outcome State Fault Refusal :=
  .next <|
    match s.encoder with
    | some w => match w.phase with
      | .lineCoding => s.lineCoded w
      | _ => s
    | none => s

def execExtentTake (s : State) : Outcome State Fault Refusal :=
  .next <|
    match s.encoder with
    | some w => match w.phase with
      | .committing .finishing => s.takeForCommit w
      | _ => s
    | none => s

end Sys2Proof.Machine
end

