-- ==== Sys2Proof/Machine/Reads.lean ====
section
/-! DEFINITION. How a decode channel reads one plane-band: which unit next, and what a completed read
does to the plane-band (R92 to R94). -/

namespace Sys2Proof.Machine

/-- The next read of a plane-band at `position` of the page with this extent list: its index entry
first, then its stored units in ascending order (R92). Absent when it has all its units. -/
def Decoding.nextRead (d : Decoding) (slot : DecodeSlot) (h : Handle) (position : Nat)
    (extents : List Nat) : Option ReadReq :=
  match d.entry with
  | none =>
    let a := entryByte h position
    some ⟨slot, some (unitOfByte a), .entry (a % 256)⟩
  | some e =>
    if d.unitsRead < unitCount e.offset e.length then
      let u := e.offset / 256 + d.unitsRead
      let first := max e.offset (u * 256)
      let stop := min (e.offset + e.length) ((u + 1) * 256)
      some ⟨slot, streamUnit extents u, .bytes (first - u * 256) (stop - first)⟩
    else none

/-- What a completed read hands to its plane-band (R154). -/
inductive ReadData where
  | entry (e : IndexEntry)
  | bytes (bs : List Byte)
  deriving DecidableEq, Repr

/-- The contents a read returns, as they stand at its completion (R36, R154). -/
def State.readUnit (s : State) (u : UnitAddr) : ReadTarget → ReadData
  | .entry o => .entry (s.store.readEntry s.undefinedDraws (u.base + o))
  | .bytes o len => .bytes (s.store.readBytes s.undefinedDraws (u.base + o) len)

/-- What a completed read makes of its plane-band, absent where the index entry is malformed (R92, R93). -/
def Decoding.take (p : DecodeShape) (streamLength : Nat) (d : Decoding) : ReadData → Option Decoding
  | .entry e => if entryGood p streamLength e then some { d with entry := some e } else none
  | .bytes bs =>
    match d.entry with
    | some e => some (d.feed p e bs)
    | none => some d

/-- Whether the grant in progress is the press channel's. -/
def Grant.isPress : Grant → Bool
  | .press _ _ => true
  | _ => false

/-- Whether the grant in progress is the proof channel's. -/
def Grant.isProof : Grant → Bool
  | .proof _ _ => true
  | _ => false

end Sys2Proof.Machine
end

