-- ==== Sys2Proof/Machine/Press.lean ====
section
/-! DEFINITION. The press decode channel (section 5.2) and the Press port's delivery (Chapter 6):
buffers, line order, sending, band completion, endings. -/

namespace Sys2Proof.Machine

/-! ## Band buffers (R97 to R100) -/

def PressChannel.buffer (c : PressChannel) : BufferId → BandBuffer
  | .a => c.bufferA
  | .b => c.bufferB

def PressChannel.setBuffer (c : PressChannel) (k : BufferId) (x : BandBuffer) : PressChannel :=
  match k with
  | .a => { c with bufferA := x }
  | .b => { c with bufferB := x }

/-- The band a buffer holds or is decoding. -/
def BandBuffer.band : BandBuffer → Option Nat
  | .empty => none
  | .decoding b _ _ _ => some b
  | .ready b _ => some b
  | .sending b _ => some b

/-- Whether a buffer is SENDING, and what band with which planes. -/
def BandBuffer.sent : BandBuffer → Option (Nat × List (List Byte))
  | .sending b planes => some (b, planes)
  | _ => none

/-- A buffer left as it is, unless it is SENDING: then it goes EMPTY (R100, step 1). -/
def BandBuffer.endSending : BandBuffer → BandBuffer
  | .sending _ _ => .empty
  | x => x

/-- A READY buffer goes SENDING once the band before it is complete: its band is the first not completed
and the lead margin is past (R100, step 2). -/
def BandBuffer.promote (d : Delivery) : BandBuffer → BandBuffer
  | .ready b planes =>
    if d.phase ≠ .lead ∧ b = d.firstNotComplete then .sending b planes else .ready b planes
  | x => x

/-- Discards a buffer that holds a band at or above `stop` (R101). -/
def BandBuffer.discardFrom (stop : Nat) (x : BandBuffer) : BandBuffer :=
  if x.band.any fun b => stop ≤ b then .empty else x

/-- Whether a band is below the stop band, when there is one (R98). -/
def PressChannel.belowStop (c : PressChannel) (band : Nat) : Bool :=
  match c.stopBand with
  | none => true
  | some n => band < n

/-- An EMPTY buffer is assigned the next band, if one remains below both limits (R98). -/
def PressChannel.assign (k : BufferId) (c : PressChannel) : PressChannel :=
  if c.buffer k = .empty ∧ c.nextBand < c.shape.bands ∧ c.belowStop c.nextBand then
    { c.setBuffer k (.decoding c.nextBand 0 Decoding.initial []) with nextBand := c.nextBand + 1 }
  else c

/-- Both buffers, A first, are assigned what remains (R98). -/
def PressChannel.assignAll (c : PressChannel) : PressChannel := (c.assign .a).assign .b

/-- Every buffer changed alike. -/
def PressChannel.mapBuffers (f : BandBuffer → BandBuffer) (c : PressChannel) : PressChannel :=
  { c with bufferA := f c.bufferA, bufferB := f c.bufferB }

/-- The press channel as START leaves it (R98). -/
def PressChannel.begin (h : Handle) (p : Shape) (startBand : Nat) : PressChannel :=
  PressChannel.assignAll
    { handle := h, shape := p, startBand := startBand, nextBand := startBand, stopBand := none
      bufferA := .empty, bufferB := .empty }

/-! ## Reads (R94, R99) -/

/-- The next read of a buffer. -/
def PressChannel.bufferRead (c : PressChannel) (k : BufferId) (extents : List Nat) : Option ReadReq :=
  match c.buffer k with
  | .decoding band plane work _ =>
    work.nextRead (.press k) c.handle (band * c.shape.planes + plane) extents
  | _ => none

/-- Whether buffer A's band comes before buffer B's. -/
def PressChannel.aFirst (c : PressChannel) : Bool :=
  match c.bufferA.band, c.bufferB.band with
  | some x, some y => x ≤ y
  | _, _ => true

/-- The channel's next read: the lower band's, else the other buffer's (R99). -/
def PressChannel.nextRead (c : PressChannel) (extents : List Nat) : Option ReadReq :=
  let a := c.bufferRead .a extents
  let b := c.bufferRead .b extents
  if c.aFirst then a.or b else b.or a

/-- The press channel presents its next read, unless one of its own is waiting or in progress, a given-up
one included (R94, R151, log entry 18); its arrival lets a free store make a grant (R152). -/
def State.presentPress (s : State) : State :=
  match s.pressChannel with
  | none => s
  | some c =>
    if s.sched.pressReq.isSome ∨ s.sched.grant.any (·.isPress) then s
    else
      match c.nextRead (s.page c.handle).extents with
      | none => s
      | some q => (s.updateSched fun x => { x with pressReq := some q }).grantNext

/-! ## The line order (R118 to R120) -/

/-- The block after `b` in the line order; absent after the last (R118). -/
def Delivery.after (d : Delivery) (b : BlockRef) : Option BlockRef :=
  if b.plane + 1 < d.shape.planes then some { b with plane := b.plane + 1 }
  else
    match b.phase with
    | .lead =>
      if b.line + 1 < d.lead then some ⟨.lead, b.line + 1, 0⟩
      else some ⟨.page, d.startBand * d.shape.bandHeight, 0⟩
    | .page =>
      if b.line + 1 < d.shape.height then some ⟨.page, b.line + 1, 0⟩
      else if 0 < d.trail then some ⟨.trail, 0, 0⟩ else none
    | .trail => if b.line + 1 < d.trail then some ⟨.trail, b.line + 1, 0⟩ else none

/-- The row `y` of a plane-band's samples. -/
def sampleRow (width y : Nat) (samples : List Byte) : List Byte := (samples.drop (y * width)).take width

/-- The samples of a page line and plane in the SENDING buffer that holds its band, absent while no
buffer does (R119, R120). -/
def PressChannel.pageLine (c : PressChannel) (line plane : Nat) : Option (List Byte) :=
  let band := line / c.shape.bandHeight
  let from' := fun x : BandBuffer => match x.sent with
    | some (b, planes) =>
      if b = band then
        some (sampleRow c.shape.width (line - band * c.shape.bandHeight) (planes.getD plane []))
      else none
    | none => none
  (from' c.bufferA).or (from' c.bufferB)

/-- The frame of a block of the line order, absent while the block is not available (R119, R120). -/
def State.pressBlock (s : State) (d : Delivery) (b : BlockRef) : Option Frame :=
  match b.phase with
  | .page =>
    match s.pressChannel with
    | some c => (c.pageLine b.line b.plane).map fun xs =>
        .block .page .full b.plane b.line d.shape.width xs
    | none => none
  | _ => some (.block .margin .full b.plane b.line d.shape.width (List.replicate d.shape.width 0))

/-- The Press port sends its next block when none is outstanding, no late token is owed and the block is
available (R120). -/
def State.sendPress (s : State) : State :=
  match s.delivery with
  | none => s
  | some d =>
    if d.outstanding.isSome ∨ s.pressLate then s
    else
      match d.next with
      | none => s
      | some b =>
        match s.pressBlock d b with
        | none => s
        | some f =>
          { s.send .press f with
            delivery := some { d with outstanding := some b, next := d.after b } }

/-! ## Endings (R102, R125) -/

/-- The press channel returns to IDLE: its reads are withdrawn, a granted one is handed to no one (R102). -/
def State.idlePress (s : State) : State :=
  { s.updateSched (fun c => (c.withdrawRead (.press .a)).withdrawRead (.press .b)) with
    pressChannel := none }

/-- The head entry leaves the queue and its reference is dropped (R113, R126). -/
def State.removeHead (s : State) : State :=
  match s.queue with
  | [] => s
  | h :: t => { s with queue := t }.dropRefs h 1

/-- A delivery ends with an outcome (R125): end notice, channel IDLE and mark cleared, the head removed
for DONE, a late token owed if a block is outstanding, the record discarded and the port IDLE. -/
def State.endPress (s : State) (e : Ending) (resume : Nat) : State :=
  match s.delivery with
  | none => s
  | some d =>
    let s1 := { (s.send .press (.endNotice e d.handle resume)).idlePress with delivering := false }
    let s2 := if e = .done then s1.removeHead else s1
    { s2 with pressLate := s.pressLate || d.outstanding.isSome
              delivery := none }.setPortState .press .idle

/-- A delivery ends without an outcome, on Press link loss or device reset (R133, R134). -/
def State.dropDelivery (s : State) : State :=
  { s.idlePress with delivering := false, delivery := none, pressLate := false }

/-! ## Damage (R95, R101) -/

/-- The reads of a press buffer that no longer holds a band are withdrawn (R95, R101). -/
def State.withdrawIfEmpty (s : State) (c : PressChannel) (k : BufferId) : State :=
  if c.buffer k = .empty then s.updateSched (·.withdrawRead (.press k)) else s

/-- DAMAGED is handed to the Press port once no buffer holds a band below the stop band (R101, R130). -/
def State.handOverDamage (s : State) : State :=
  match s.pressChannel with
  | some c =>
    match c.stopBand with
    | some n =>
      if c.bufferA.band.any (· < n) ∨ c.bufferB.band.any (· < n) then s else s.endPress .damaged n
    | none => s
  | none => s

/-- The press channel finds damage at band `n` (R95, R101). -/
def State.pressDamage (s : State) (c : PressChannel) (n : Nat) : State :=
  let stop := lowerOf n c.stopBand
  let c' := { c.mapBuffers (·.discardFrom stop) with stopBand := some stop }
  State.handOverDamage
    { (((s.reportDamage c.handle n).withdrawIfEmpty c' .a).withdrawIfEmpty c' .b) with
      pressChannel := some c' }

/-! ## Decoding (R93, R99) -/

/-- READY buffers whose turn has come go SENDING (R100). -/
def State.promote (s : State) : State :=
  match s.delivery, s.pressChannel with
  | some d, some c => { s with pressChannel := some (c.mapBuffers (·.promote d)) }
  | _, _ => s

/-- A press buffer once plane `plane` of its band is verified (R99). -/
def BandBuffer.afterPlane (p : Shape) (band plane : Nat) (planes : List (List Byte))
    (samples : List Byte) : BandBuffer :=
  if plane + 1 < p.planes then .decoding band (plane + 1) Decoding.initial (planes ++ [samples])
  else .ready band (planes ++ [samples])

/-- A plane-band of a press buffer finishes (R93, R95, R99): nothing while it needs more bytes. -/
def State.pressDecoded (s : State) (k : BufferId) : State :=
  match s.pressChannel with
  | none => s
  | some c =>
    match c.buffer k with
    | .decoding band plane work planes =>
      match work.verdict (c.shape.decode band plane) with
      | none => s
      | some (.verified xs) =>
        let c' := c.setBuffer k (BandBuffer.afterPlane c.shape band plane planes xs)
        ({ s with pressChannel := some c' }.promote).sendPress.presentPress
      | some .damage => (s.pressDamage c band).presentPress
    | _ => s

/-- A read completes for a press buffer that waits for it (R92 to R94). -/
def State.pressRead (s : State) (k : BufferId) (data : ReadData) : State :=
  match s.pressChannel with
  | none => s
  | some c =>
    match c.buffer k with
    | .decoding band plane work planes =>
      match work.take (c.shape.decode band plane) (s.page c.handle).streamLength data with
      | some work' =>
        { s with pressChannel := some (c.setBuffer k (.decoding band plane work' planes)) }.presentPress
      | none => (s.pressDamage c band).presentPress
    | _ => s

/-! ## Tokens (R121, R122, R129) -/

/-- Whether an accepted PAGE block was the last of its band: plane P − 1 of the band's last line (R122). -/
def Delivery.endsBand (d : Delivery) (b : BlockRef) : Bool :=
  b.phase == .page && b.plane + 1 == d.shape.planes &&
    (b.line + 1 == d.shape.height || (b.line + 1) % d.shape.bandHeight == 0)

/-- The delivery record after a band completion (R122, R123). -/
def Delivery.completeBand (d : Delivery) : Delivery :=
  if d.firstNotComplete + 1 < d.shape.bands then
    { d with firstNotComplete := d.firstNotComplete + 1
             timer := if d.timer = .off then .off else .running }
  else
    { d with firstNotComplete := d.firstNotComplete + 1
             timer := if d.timer = .off then .off else .stopped
             phase := .trail }

/-- The channel's part of a band completion, in its order (R100). -/
def PressChannel.completeBand (d : Delivery) (c : PressChannel) : PressChannel :=
  ((c.mapBuffers (·.endSending)).mapBuffers (·.promote d)).assignAll

/-- A band completion at the port and at the channel (R100, R122). -/
def State.completeBand (s : State) (d : Delivery) : State :=
  let d' := d.completeBand
  State.handOverDamage
    { s with delivery := some d', pressChannel := s.pressChannel.map (·.completeBand d') }

/-- The lead margin's last block was accepted: the phase becomes PAGE (R118). -/
def Delivery.endLead (d : Delivery) (b : BlockRef) : Delivery :=
  if b.phase = .lead ∧ (d.next.any fun n => n.phase == .page) then { d with phase := .page } else d

/-- ACCEPT answers the outstanding block `b` (R121). -/
def State.acceptPress (s : State) (d : Delivery) (b : BlockRef) : State :=
  let d' := { d with outstanding := none }.endLead b
  let s' := { s with delivery := some d' }
  if d'.next = none then
    if d'.endsBand b then
      State.endPress { s' with delivery := some d'.completeBand } .done d'.shape.bands
    else s'.endPress .done d'.shape.bands
  else if d'.endsBand b then (s'.completeBand d').sendPress.presentPress
  else s'.promote.sendPress

/-- The resume band of a rejection (R129). -/
def Delivery.rejectedBand (d : Delivery) (b : BlockRef) : Nat :=
  match b.phase with
  | .page => b.line / d.shape.bandHeight
  | .lead => d.startBand
  | .trail => d.shape.bands

/-- A token at the Press port (R121, R129, R131). -/
def State.pressToken (s : State) (code : Byte) : State :=
  if s.pressLate then { s with pressLate := false }.sendPress
  else
    match s.delivery with
    | none => s.markStray .press
    | some d =>
      match d.outstanding with
      | none => s.markStray .press
      | some b =>
        match Token.ofCode code with
        | none => s.markStray .press
        | some .accept => s.acceptPress d b
        | some _ => State.endPress { s with delivery := some { d with outstanding := none } }
            .rejected (d.rejectedBand b)

/-! ## START (R116, R117) -/

/-- The delivery record as START creates it (R115, R117). -/
def Delivery.begin (h : Handle) (p : Shape) (startBand lead trail window : Nat) : Delivery :=
  let inLead := startBand = 0 ∧ 0 < lead
  { handle := h, shape := p, startBand := startBand, lead := lead, trail := trail, window := window
    phase := if inLead then .lead else .page
    next := some (if inLead then ⟨.lead, 0, 0⟩ else ⟨.page, startBand * p.bandHeight, 0⟩)
    outstanding := none
    firstNotComplete := startBand
    timer := if 0 < window then .running else .off }

/-- The payload of START's reply (Table 9-10). -/
def startPayload (h : Handle) (p : Shape) : List Byte :=
  [h, BitVec.ofNat 8 p.planes] ++ field16 p.width ++ field16 p.height ++ field16 p.bands

/-- A delivery of the head page `h` begins (R117). -/
def State.beginDelivery (s : State) (h : Handle) (startBand lead trail window : Nat) : State :=
  let p := (s.page h).shape
  let s1 := { s with
    delivering := true
    delivery := some (Delivery.begin h p startBand lead trail window)
    pressChannel := some (PressChannel.begin h p startBand) }.setPortState .press .outbound
  ((s1.reply .press Cmd.start.code .ok (startPayload h p)).sendPress).presentPress

end Sys2Proof.Machine
end

