-- ==== Sys2Proof/Machine/Proof.lean ====
section
/-! DEFINITION. The proof decode channel (section 5.3) and the Proof port's view (Chapter 7): what a
view sends, in which order, and how it ends. -/

namespace Sys2Proof.Machine

/-! ## View order (R104, R139) -/

/-- Whether a selected line is the last of its plane-band (R139). -/
def ViewRecord.endsPlaneBand (v : ViewRecord) (r : ViewRef) : Bool :=
  r.band * v.shape.bandHeight + v.shape.bandLines r.band ≤ r.line + v.decimation

/-- The lowest plane of a mask. -/
def lowestPlane (mask : List Nat) : Nat := mask.headD 0

/-- The plane-band after this one in view order, absent after the last (R104). -/
def ViewRecord.nextPlaneBand (v : ViewRecord) (band plane : Nat) : Option (Nat × Nat) :=
  match v.planeMask.find? (plane < ·) with
  | some p => some (band, p)
  | none => if band + 1 < v.endBand then some (band + 1, lowestPlane v.planeMask) else none

/-- The selected line after `r` in view order, absent after the last (R139). -/
def ViewRecord.after (v : ViewRecord) (r : ViewRef) : Option ViewRef :=
  if v.endsPlaneBand r then
    (v.nextPlaneBand r.band r.plane).map fun x => ⟨x.1, x.2, x.1 * v.shape.bandHeight⟩
  else some { r with line := r.line + v.decimation }

/-- Whether `r` is the last selected line of its band: the last of its plane-band in the highest plane of
the mask (R138). -/
def ViewRecord.endsBand (v : ViewRecord) (r : ViewRef) : Bool :=
  v.endsPlaneBand r && (v.planeMask.find? (r.plane < ·)).isNone

/-! ## Block contents (R140) -/

/-- The sample count of every block of a view: ceil(W / D) (R137). -/
def viewSamples (width decimation : Nat) : Nat := ceilDiv width decimation

/-- The samples of a line at the columns whose number mod D is 0 (R140). -/
def decimate (decimation : Nat) (line : List Byte) : List Byte :=
  (List.range (viewSamples line.length decimation)).map fun j => line.getD (j * decimation) 0

/-- The top four bits of samples, two to a byte, the first of each pair high; an odd last one has zeros
beside it (R140). -/
def packDraft4 : List Byte → List Byte
  | [] => []
  | [x] => [BitVec.ofNat 8 (x.toNat / 16 * 16)]
  | x :: y :: t => BitVec.ofNat 8 (x.toNat / 16 * 16 + y.toNat / 16) :: packDraft4 t

/-- The data bytes of samples at a depth (R140). -/
def depthData (d : Depth) (samples : List Byte) : List Byte :=
  match d with
  | .full => samples
  | .draft4 => packDraft4 samples

/-- The reconstructed samples of a line of the plane-band in the proof buffer. -/
def bufferLine (p : Shape) (band line : Nat) (samples : List Byte) : List Byte :=
  (samples.drop ((line - band * p.bandHeight) * p.width)).take p.width

/-- The frame of a selected line, absent while the proof buffer is not SENDING its plane-band (R140,
R141). -/
def State.viewBlock (s : State) (v : ViewRecord) (r : ViewRef) : Option Frame :=
  match s.proofChannel with
  | none => none
  | some c =>
    match c.buffer with
    | .sending samples =>
      if c.band = r.band ∧ c.plane = r.plane then
        some (.block .page v.depth r.plane r.line (viewSamples v.shape.width v.decimation)
          (depthData v.depth (decimate v.decimation (bufferLine v.shape r.band r.line samples))))
      else none
    | _ => none

/-- The Proof port sends its next block when none is outstanding, no late token is owed and the buffer is
SENDING its plane-band (R141). -/
def State.sendView (s : State) : State :=
  match s.view with
  | none => s
  | some v =>
    if v.outstanding.isSome ∨ s.proofLate then s
    else
      match v.next with
      | none => s
      | some r =>
        match s.viewBlock v r with
        | none => s
        | some f =>
          { s.send .proof f with view := some { v with outstanding := some r, next := v.after r } }

/-! ## Reads (R94, R103) -/

/-- The proof channel presents its next read, unless one of its own is waiting or in progress, a given-up
one included (R94, R151, log entry 18); its arrival lets a free store make a grant (R152). -/
def State.presentProof (s : State) : State :=
  match s.proofChannel with
  | none => s
  | some c =>
    match c.buffer with
    | .decoding work =>
      if s.sched.proofReq.isSome ∨ s.sched.grant.any (·.isProof) then s
      else
        match work.nextRead .proof c.handle (c.band * c.shape.planes + c.plane)
            (s.page c.handle).extents with
        | none => s
        | some q => (s.updateSched fun x => { x with proofReq := some q }).grantNext
    | _ => s

/-! ## Endings (R106, R142) -/

/-- The proof channel returns to IDLE: its read is withdrawn, a granted one is handed to no one (R106). -/
def State.idleProof (s : State) : State :=
  { s.updateSched (·.withdrawRead .proof) with proofChannel := none }

/-- A view ends with an outcome (R142): end notice, channel IDLE, reference dropped, a late token owed if
a block is outstanding, the record discarded and the port IDLE. -/
def State.endView (s : State) (e : Ending) (resume : Nat) : State :=
  match s.view with
  | none => s
  | some v =>
    { ((s.send .proof (.endNotice e v.handle resume)).idleProof.dropRefs v.handle 1) with
      proofLate := s.proofLate || v.outstanding.isSome
      view := none }.setPortState .proof .idle

/-- A view ends without an outcome, on Proof link loss (R149). -/
def State.dropView (s : State) : State :=
  match s.view with
  | none => { s.idleProof with proofLate := false }
  | some v => { s.idleProof.dropRefs v.handle 1 with view := none, proofLate := false }

/-- The proof channel finds damage at the band it decodes (R95, R105, R146). -/
def State.proofDamage (s : State) (c : ProofChannel) : State :=
  (s.reportDamage c.handle c.band).endView .damaged c.band

/-! ## Decoding (R93, R104) -/

/-- The plane-band of the proof buffer finishes: nothing while it needs more bytes. -/
def State.proofDecoded (s : State) : State :=
  match s.proofChannel with
  | none => s
  | some c =>
    match c.buffer with
    | .decoding work =>
      match work.verdict (c.shape.decode c.band c.plane) with
      | none => s
      | some (.verified xs) => { s with proofChannel := some { c with buffer := .sending xs } }.sendView
      | some .damage => s.proofDamage c
    | _ => s

/-- A read completes for the proof buffer that waits for it (R92 to R94). -/
def State.proofRead (s : State) (data : ReadData) : State :=
  match s.proofChannel with
  | none => s
  | some c =>
    match c.buffer with
    | .decoding work =>
      match work.take (c.shape.decode c.band c.plane) (s.page c.handle).streamLength data with
      | some work' =>
        { s with proofChannel := some { c with buffer := .decoding work' } }.presentProof
      | none => s.proofDamage c
    | _ => s

/-! ## Tokens (R141, R143, R145, R147) -/

/-- The proof channel after the last selected line of its plane-band was accepted (R104). -/
def ProofChannel.advance (v : ViewRecord) (c : ProofChannel) : ProofChannel :=
  match v.nextPlaneBand c.band c.plane with
  | some x => { c with band := x.1, plane := x.2, buffer := .decoding Decoding.initial }
  | none => { c with buffer := .empty }

/-- ACCEPT answers the outstanding block `r` (R141). -/
def State.acceptView (s : State) (v : ViewRecord) (r : ViewRef) : State :=
  let v' := { v with
    outstanding := none
    firstNotSent := if v.endsBand r then v.firstNotSent + 1 else v.firstNotSent }
  let s' := { s with
    view := some v'
    proofChannel :=
      if v.endsPlaneBand r then s.proofChannel.map (ProofChannel.advance v) else s.proofChannel }
  if v'.next = none then s'.endView .done v.endBand else s'.sendView.presentProof

/-- A token at the Proof port (R141, R145, R147). -/
def State.proofToken (s : State) (code : Byte) : State :=
  if s.proofLate then { s with proofLate := false }.sendView
  else
    match s.view with
    | none => s.markStray .proof
    | some v =>
      match v.outstanding with
      | none => s.markStray .proof
      | some r =>
        match Token.ofCode code with
        | none => s.markStray .proof
        | some .accept => s.acceptView v r
        | some _ => State.endView { s with view := some { v with outstanding := none } }
            .rejected (r.line / v.shape.bandHeight)

/-! ## VIEW (R135 to R138) -/

/-- The payload of VIEW's reply (Table 9-10). -/
def viewPayload (v : ViewRecord) : List Byte :=
  [v.handle, BitVec.ofNat 8 v.shape.planes] ++ field16 v.shape.width ++ field16 v.shape.height ++
    [BitVec.ofNat 8 v.shape.bandHeight] ++ field16 v.firstBand ++ field16 (v.endBand - v.firstBand) ++
    [BitVec.ofNat 8 v.decimation, v.depth.code] ++ field16 (viewSamples v.shape.width v.decimation)

/-- The view record as VIEW creates it, its range clamped to the usable end (R136, R138). -/
def ViewRecord.begin (q : ViewParams) (r : PageRecord) : ViewRecord :=
  let mask := maskPlanes q.planeMask
  let first := q.firstBand.toNat
  { handle := q.handle, shape := r.shape, planeMask := mask, firstBand := first
    endBand := min (first + q.bandCount.toNat) r.usableEnd
    decimation := q.decimation.toNat
    depth := (depthOf q.depth).getD .full
    next := some ⟨first, lowestPlane mask, first * r.bandHeight⟩
    outstanding := none
    firstNotSent := first }

/-- The proof channel as VIEW leaves it (R103). -/
def ProofChannel.begin (v : ViewRecord) : ProofChannel where
  handle     := v.handle
  shape      := v.shape
  planeMask  := v.planeMask
  firstBand  := v.firstBand
  bandCount  := v.endBand - v.firstBand
  decimation := v.decimation
  band       := v.firstBand
  plane      := lowestPlane v.planeMask
  buffer     := .decoding Decoding.initial

/-- A view begins (R137). -/
def State.beginView (s : State) (v : ViewRecord) : State :=
  let s1 := { s.addRefs v.handle 1 with
    view := some v
    proofChannel := some (ProofChannel.begin v) }.setPortState .proof .outbound
  ((s1.reply .proof Cmd.view.code .ok (viewPayload v)).sendView).presentProof

end Sys2Proof.Machine
end

