-- ==== Sys2Proof/Machine/Delivery.lean ====
section
/-! DEFINITION. The meanings of the commands and events that both kinds of delivery share: STOP, VIEW,
BLOCK_TOKEN, PLANE_BAND_DECODED and BAND_WINDOW_EXPIRY. -/

namespace Sys2Proof.Machine

open Host (Outcome)

/-- STOP (R127, R144): the end notice, then the reply. A port in OUTBOUND without a record, which no run
has, is only answered (log entry 14). -/
def State.stopDelivery (s : State) (port : Port) : State :=
  let ended :=
    match port with
    | .press => match s.delivery with
      | some d => s.endPress .stopped d.firstNotComplete
      | none => s
    | .proof => match s.view with
      | some v => s.endView .stopped v.firstNotSent
      | none => s
    | .compose => s
  ended.reply port Cmd.stop.code .ok []

def execStop (port : Port) (s : State) : Outcome State Fault Refusal :=
  .next (s.judge port .stop (·.stopDelivery port))

/-- VIEW (R135, R137). -/
def State.openView (s : State) (port : Port) (q : ViewParams) : State :=
  match viewRefusal q (s.page q.handle) with
  | some r => s.reply port Cmd.view.code r []
  | none => s.beginView (ViewRecord.begin q (s.page q.handle))

def execView (port : Port) (q : ViewParams) (s : State) : Outcome State Fault Refusal :=
  .next (s.judge port .view (·.openView port q))

/-- A block token arriving at a port that is not DOWN (R121, R141, R186). -/
def State.blockToken (s : State) (port : Port) (code : Byte) : State :=
  match port with
  | .compose => s.markStray .compose
  | .press => s.pressToken code
  | .proof => s.proofToken code

def execBlockToken (port : Port) (code : Byte) (s : State) : Outcome State Fault Refusal :=
  .next (if (s.port port).state = .down then s else s.blockToken port code)

/-- A decode channel finishes a plane-band (R93, R95). -/
def execPlaneBandDecoded (slot : DecodeSlot) (s : State) : Outcome State Fault Refusal :=
  .next <|
    match slot with
    | .press k => s.pressDecoded k
    | .proof => s.proofDecoded

/-- The band window timer expires (R123, R128). -/
def execBandWindowExpiry (s : State) : Outcome State Fault Refusal :=
  .next <|
    match s.delivery with
    | some d => if d.timer = .running then s.endPress .underrun d.firstNotComplete else s
    | none => s

end Sys2Proof.Machine
end

