-- ==== Sys2Proof/Machine/Directory.lean ====
section
/-! DEFINITION. The meanings of the commands answered from the page directory (Chapter 1): QUERY_PAGE,
LIST_PAGES, RELEASE, HOLD and LIFT. -/

namespace Sys2Proof.Machine

open Host (Outcome)

/-- QUERY_PAGE (R22). -/
def State.queryPage (s : State) (port : Port) (h : Handle) (extentStart : Nat) : State :=
  if 8191 < extentStart then s.reply port Cmd.queryPage.code .param []
  else if (s.page h).state = .free then s.reply port Cmd.queryPage.code .noPage []
  else s.reply port Cmd.queryPage.code .ok (queryPayload h extentStart (s.page h))

def execQueryPage (port : Port) (h : Handle) (extentStart : Word16) (s : State) :
    Outcome State Fault Refusal :=
  .next (s.judge port .queryPage (·.queryPage port h extentStart.toNat))

/-- The handles `first` to `last`, ascending. -/
def handlesFrom (first last : Nat) : List Handle :=
  (List.range (last + 1 - first)).map fun i => BitVec.ofNat 8 (first + i)

/-- LIST_PAGES (R23): one entry for each handle from `first` up to the smaller of first + count − 1 and
255. -/
def State.listPages (s : State) (port : Port) (first count : Nat) : State :=
  if count = 0 ∨ 256 < count then s.reply port Cmd.listPages.code .param []
  else
    let hs := handlesFrom first (min (first + count - 1) 255)
    s.reply port Cmd.listPages.code .ok
      (field16 hs.length ++ hs.flatMap fun h => listEntry h (s.page h))

def execListPages (port : Port) (first : Handle) (count : Word16) (s : State) :
    Outcome State Fault Refusal :=
  .next (s.judge port .listPages (·.listPages port first.toNat count.toNat))

/-- The four counts of a RELEASE (R18). -/
structure ReleaseCounts where
  freed   : Nat
  pending : Nat
  busy    : Nat
  held    : Nat
  deriving DecidableEq, Repr

/-- RELEASE's treatment of one handle (Table 1-7). -/
def State.releaseOne (x : State × ReleaseCounts) (h : Handle) : State × ReleaseCounts :=
  let (s, n) := x
  let r := s.page h
  if r.state = .free then (s, n)
  else if r.state = .filling then (s, { n with busy := n.busy + 1 })
  else if r.holdReason.isSome then (s, { n with held := n.held + 1 })
  else if r.references ≠ 0 then
    (s.setPage h { r with releasePending := true }, { n with pending := n.pending + 1 })
  else (s.freePage h, { n with freed := n.freed + 1 })

/-- RELEASE (R18). -/
def State.releasePages (s : State) (port : Port) (first last : Nat) : State :=
  if last < first then s.reply port Cmd.release.code .param []
  else
    let (s', n) := (handlesFrom first last).foldl State.releaseOne (s, ⟨0, 0, 0, 0⟩)
    s'.reply port Cmd.release.code (if n.busy = 0 ∧ n.held = 0 then .ok else .partialRelease)
      (field16 n.freed ++ field16 n.pending ++ field16 n.busy ++ field16 n.held)

def execRelease (port : Port) (first last : Handle) (s : State) : Outcome State Fault Refusal :=
  .next (s.judge port .release (·.releasePages port first.toNat last.toNat))

/-- HOLD (R14). -/
def State.holdPage (s : State) (port : Port) (h : Handle) (reason : Byte) : State :=
  match holdRefusal reason (s.page h) with
  | some r => s.reply port Cmd.hold.code r []
  | none =>
    (s.updatePage h fun r => { r with holdReason := some reason }).reply port Cmd.hold.code .ok []

def execHold (port : Port) (h : Handle) (reason : Byte) (s : State) : Outcome State Fault Refusal :=
  .next (s.judge port .hold (·.holdPage port h reason))

/-- LIFT (R15). -/
def State.liftPage (s : State) (port : Port) (h : Handle) : State :=
  (s.updatePage h fun r => { r with holdReason := none }).reply port Cmd.lift.code .ok []

def execLift (port : Port) (h : Handle) (s : State) : Outcome State Fault Refusal :=
  .next (s.judge port .lift (·.liftPage port h))

end Sys2Proof.Machine
end

