-- ==== Sys2Proof/Machine/Links.lean ====
section
/-! DEFINITION. The meanings of the ports' own commands and events (Chapters 9 and 10): STATUS, unknown and
failed frames, stray bytes, FRAME_SENT, REST, WAKE, links up and lost, and the two resets. -/

namespace Sys2Proof.Machine

open Host (Outcome)

/-- STATUS (R188): the payload shows the flags, then they are cleared. -/
def State.status (s : State) (port : Port) : State :=
  (s.reply port Cmd.status.code .ok (statusPayload (s.port port) s)).updatePort port (·.clearFlags)

def execStatus (port : Port) (s : State) : Outcome State Fault Refusal :=
  .next (s.judge port .status (·.status port))

/-- A command frame with a code not in Table 9-5 (R183): discarded while a command is outstanding, else
answered ILLEGAL. -/
def execUnknownCommand (port : Port) (code : Byte) (s : State) : Outcome State Fault Refusal :=
  .next <|
    if (s.port port).state = .down then s
    else if (s.port port).outstanding.isSome then s.markStray port
    else (s.updatePort port (·.take code)).reply port code .illegal []

/-- A command frame that fails its frame check (R185). -/
def execFrameCheckFailure (port : Port) (s : State) : Outcome State Fault Refusal :=
  .next (if (s.port port).state = .down then s else s.updatePort port (·.setFrameCheck))

/-- A byte that begins no frame (R186). -/
def execStrayByte (port : Port) (_ : Byte) (s : State) : Outcome State Fault Refusal :=
  .next (if (s.port port).state = .down then s else s.markStray port)

/-- A port whose oldest frame has been sent (R174); a reply ends its command's outstanding status (R183). -/
def PortRec.sentOne (r : PortRec) : PortRec :=
  match r.transmit with
  | [] => r
  | f :: rest =>
    { r with transmit := rest, outstanding := if f.isReply then none else r.outstanding }

def execFrameSent (port : Port) (s : State) : Outcome State Fault Refusal :=
  .next (s.updatePort port (·.sentOne))

/-- REST (R189, R190). -/
def State.restPort (s : State) (port : Port) : State :=
  ((s.setPortState port .resting).reply port Cmd.rest.code .ok []).judgeRest

def execRest (port : Port) (s : State) : Outcome State Fault Refusal :=
  .next (s.judge port .rest (·.restPort port))

/-- WAKE (R193). -/
def State.wakePort (s : State) (port : Port) : State :=
  ((s.setPortState port .idle).reply port Cmd.wake.code .ok []).wakeStore

def execWake (port : Port) (s : State) : Outcome State Fault Refusal :=
  .next (s.judge port .wake (·.wakePort port))

/-- A link comes up (R171, R193): its DOWN port goes IDLE, which is a wake if the store is resting. -/
def execLinkUp (port : Port) (s : State) : Outcome State Fault Refusal :=
  .next (if (s.port port).state = .down then (s.setPortState port .idle).wakeStore else s)

/-- A port after its link is lost (R172): the flags stay. -/
def PortRec.lost (r : PortRec) : PortRec :=
  { r with state := .down, outstanding := none, transmit := [], receiver := [] }

/-- What a lost link does to the work its port carries (Table 9-2). -/
def State.loseWork (s : State) : Port → State
  | .compose => s.tear
  | .press => s.dropDelivery
  | .proof => s.dropView

/-- A link is lost (R172, R190). A DOWN port has no link to lose. -/
def execLinkLoss (port : Port) (s : State) : Outcome State Fault Refusal :=
  .next <|
    if (s.port port).state = .down then s
    else ((s.loseWork port).updatePort port (·.lost)).judgeRest

/-- A port after device reset (R173): DOWN, its flags clear. -/
def PortRec.deviceReset (r : PortRec) : PortRec := r.lost.clearFlags

/-- A record after device reset: no references, and FREE if it was release pending (R25). -/
def PageRecord.deviceReset (r : PageRecord) : PageRecord :=
  if r.releasePending then PageRecord.free else { r with references := 0 }

/-- The directory after device reset (R25): the release-pending pages freed, the queue and the references
gone. -/
def State.resetDirectory (s : State) : State :=
  { s with
    pages := mapRecords (·.deviceReset) s.pages
    freeSet := returnExtents
      ((s.pages.toList.filter (·.releasePending)).flatMap (·.extents)) s.freeSet
    freeRecords := s.freeRecords + s.pages.toList.countP (·.releasePending)
    queue := [] }

/-- Both deliveries abandoned without end notices (R134, R149). -/
def State.dropDeliveries (s : State) : State :=
  { s.dropDelivery.idleProof with view := none, proofLate := false }

/-- Device reset (R25, R37, R90, R107, R134, R149, R163, R173, R194). -/
def execDeviceReset (s : State) : Outcome State Fault Refusal :=
  .next <|
    State.wakeStore
      { (s.tear.updateSched (·.withdrawWrite)).dropDeliveries.resetDirectory with
        compose := s.compose.deviceReset
        press := s.press.deviceReset
        proof := s.proof.deviceReset }

/-- Power-on reset clears every piece of state (R24, R37, R43, R91, R163, R168, R173, R194). The commands
still waiting outside stay, and the store's contents are undefined anew (log entries 1 and 20). -/
def execPowerOnReset (s : State) : Outcome State Fault Refusal :=
  .next { State.reset with pending := s.pending, undefinedDraws := redraw [] s.undefinedDraws }

end Sys2Proof.Machine
end

