-- ==== Sys2Proof/Machine/Queue.lean ====
section
/-! DEFINITION. The meanings of the print queue's commands (section 6.2) and of START. -/

namespace Sys2Proof.Machine

open Host (Outcome)

/-- ENQUEUE (R111). -/
def State.enqueuePage (s : State) (port : Port) (h : Handle) (copies : Nat) : State :=
  match enqueueRefusal copies s.queue.length (s.page h) with
  | some r => s.reply port Cmd.enqueue.code r []
  | none =>
    { s.addRefs h copies with queue := s.queue ++ List.replicate copies h }.reply port
      Cmd.enqueue.code .ok [BitVec.ofNat 8 (s.queue.length + copies)]

def execEnqueue (port : Port) (h : Handle) (copies : Byte) (s : State) :
    Outcome State Fault Refusal :=
  .next (s.judge port .enqueue (·.enqueuePage port h copies.toNat))

/-- Every entry naming `old` changed to name `new`. -/
def rebindEntries (old new : Handle) (q : List Handle) : List Handle :=
  q.map fun h => if h = old then new else h

/-- The entries a REBIND may change and those it spares: the head while it carries the delivering mark
(R112). -/
def State.rebindable (s : State) : List Handle := if s.delivering then s.queue.drop 1 else s.queue

/-- How many entries a REBIND changes; none when both handles name one page (R112). -/
def State.rebindCount (s : State) (old new : Handle) : Nat :=
  if old = new then 0 else s.rebindable.count old

/-- The queue after a REBIND (R112). -/
def State.reboundQueue (s : State) (old new : Handle) : List Handle :=
  if s.delivering then s.queue.take 1 ++ rebindEntries old new (s.queue.drop 1)
  else rebindEntries old new s.queue

/-- REBIND (R112). -/
def State.rebindPages (s : State) (port : Port) (old new : Handle) : State :=
  match rebindRefusal (s.page new) with
  | some r => s.reply port Cmd.rebind.code r []
  | none =>
    let n := s.rebindCount old new
    (({ s with queue := s.reboundQueue old new }.addRefs new n).dropRefs old n).reply port
      Cmd.rebind.code .ok [BitVec.ofNat 8 n]

def execRebind (port : Port) (old new : Handle) (s : State) : Outcome State Fault Refusal :=
  .next (s.judge port .rebind (·.rebindPages port old new))

/-- SKIP (R113). -/
def State.skipHead (s : State) (port : Port) : State :=
  match s.queue with
  | [] => s.reply port Cmd.skip.code .queueEmpty []
  | h :: t => s.removeHead.reply port Cmd.skip.code .ok [h, BitVec.ofNat 8 t.length]

def execSkip (port : Port) (s : State) : Outcome State Fault Refusal :=
  .next (s.judge port .skip (·.skipHead port))

/-- PEEK_QUEUE (R114). -/
def State.peekQueue (s : State) (port : Port) : State :=
  s.reply port Cmd.peekQueue.code .ok
    (BitVec.ofNat 8 s.queue.length :: (if s.delivering then 0x01 else 0x00) :: s.queue)

def execPeekQueue (port : Port) (s : State) : Outcome State Fault Refusal :=
  .next (s.judge port .peekQueue (·.peekQueue port))

/-- START (R116, R117). -/
def State.startHead (s : State) (port : Port) (startBand lead trail window : Nat) : State :=
  match s.queue with
  | [] => s.reply port Cmd.start.code .queueEmpty []
  | h :: _ =>
    match startRefusal startBand lead trail (s.page h) with
    | some r => s.reply port Cmd.start.code r []
    | none => s.beginDelivery h startBand lead trail window

def execStart (port : Port) (startBand lead trail window : Word16) (s : State) :
    Outcome State Fault Refusal :=
  .next (s.judge port .start
    (·.startHead port startBand.toNat lead.toNat trail.toNat window.toNat))

end Sys2Proof.Machine
end

