-- ==== Sys2Proof/Machine/Scheduling.lean ====
section
/-! DEFINITION. The meanings of the store's and the monitor's events (Chapter 8): TRANSFER_COMPLETION,
REFRESH_COMPLETION, REFRESH_TIMER_EXPIRY and THERMAL_READING. -/

namespace Sys2Proof.Machine

open Host (Outcome)

/-- What a write leaves in the store: only the bytes of its range change (R33, R154). -/
def Memory.write (m : Memory) (u : UnitAddr) (offset : Nat) : WriteData → Memory
  | .bytes bs => m.writeBytes (u.base + offset) bs
  | .entry e => m.writeEntry (u.base + offset) e

/-- The unit of a transfer, if the store has it. -/
def presentUnit (a : Option UnitAddr) : Option UnitAddr := a.filter (·.present)

/-- The completion of an encoder write (R83, R154): it lands, and its commit goes on if it still waits;
else the encoder may present the first write of a commit that has begun since (R151). -/
def State.completeWrite (s : State) (w : WriteReq) (live : Bool) (u : UnitAddr) : State :=
  let s' := { s with store := s.store.write u w.offset w.data }
  if live then s'.writeDone else s'.presentWrite

/-- The completion of a press channel read (R94, R154): a discarded one is handed to no one, and the
channel presents its next read (R151). -/
def State.completePressRead (s : State) (r : ReadReq) (live : Bool) (u : UnitAddr) : State :=
  match live, r.slot with
  | true, .press k => s.pressRead k (s.readUnit u r.target)
  | _, _ => s.presentPress

/-- The completion of a proof channel read (R94, R154): a discarded one is handed to no one, and the
channel presents its next read (R151). -/
def State.completeProofRead (s : State) (r : ReadReq) (live : Bool) (u : UnitAddr) : State :=
  if live then s.proofRead (s.readUnit u r.target) else s.presentProof

/-- The state with the store's own changes in place and the store free. -/
def State.freed (s : State) (change : StoreChange) : State :=
  { s with store := s.store.change change }.updateSched (·.release)

/-- A transfer whose unit the store has completes by `k`, and the next grant is made; a transfer to a
unit that the store has not stops the machine. -/
def finishTransfer (addr : Option UnitAddr) (k : UnitAddr → State) : Outcome State Fault Refusal :=
  match presentUnit addr with
  | some u => .next (k u).settle
  | none => .fault .absentStoreUnit

/-- A granted transfer completes (R153, R154). With no transfer granted nothing completes. -/
def execTransferCompletion (change : StoreChange) (s : State) : Outcome State Fault Refusal :=
  match s.sched.grant with
  | some (.encoder w live) => finishTransfer w.addr ((s.freed change).completeWrite w live)
  | some (.press r live) => finishTransfer r.addr ((s.freed change).completePressRead r live)
  | some (.proof r live) => finishTransfer r.addr ((s.freed change).completeProofRead r live)
  | some .refresh => .next s
  | none => .next s

/-- A granted refresh completes (R153). With no refresh granted nothing completes. -/
def execRefreshCompletion (s : State) : Outcome State Fault Refusal :=
  .next <|
    match s.sched.grant with
    | some .refresh => (s.updateSched (·.release)).settle
    | _ => s

/-- The refresh timer expires (R155, R157). A stopped timer does not. -/
def execRefreshTimerExpiry (s : State) : Outcome State Fault Refusal :=
  .next (if s.sched.timerRunning then (s.updateSched (·.expire s.thermal)).settle else s)

/-- The state after a reading (R164 to R167). -/
def State.takeReading (s : State) (reading : Int) : State :=
  { s with lastReading := some reading, thermal := nextClass s.lastReading.isNone s.thermal reading }

/-- A reading of the sensor (R164). A class change that ends the throttle lets a free store make a grant
(R152, R159). -/
def execThermalReading (v : SensorValue) (s : State) : Outcome State Fault Refusal :=
  let s' := s.takeReading (readingOf v)
  .next (if s.thermal = .hot ∧ s'.thermal ≠ .hot then s'.settle else s')

end Sys2Proof.Machine
end

