-- ==== Sys2Proof/Machine/Dispatch.lean ====
section
/-! DEFINITION. One arm per command: the meaning of each row of spec/opcode_table.json. -/

namespace Sys2Proof.Machine

def exec (i : Instr) (s : State) : Host.Outcome State Fault Refusal :=
  match i with
  | .status port => Sys2Proof.Machine.execStatus port s
  | .queryPage port handle extentStart => Sys2Proof.Machine.execQueryPage port handle extentStart s
  | .listPages port first count => Sys2Proof.Machine.execListPages port first count s
  | .openPage port params => Sys2Proof.Machine.execOpenPage port params s
  | .openPageContinue port handle => Sys2Proof.Machine.execOpenPageContinue port handle s
  | .sealPage port => Sys2Proof.Machine.execSealPage port s
  | .abandonPage port => Sys2Proof.Machine.execAbandonPage port s
  | .enqueue port handle copies => Sys2Proof.Machine.execEnqueue port handle copies s
  | .rebind port old new => Sys2Proof.Machine.execRebind port old new s
  | .release port first last => Sys2Proof.Machine.execRelease port first last s
  | .peekQueue port => Sys2Proof.Machine.execPeekQueue port s
  | .start port startBand lead trail window => Sys2Proof.Machine.execStart port startBand lead trail window s
  | .skip port => Sys2Proof.Machine.execSkip port s
  | .stop port => Sys2Proof.Machine.execStop port s
  | .view port params => Sys2Proof.Machine.execView port params s
  | .hold port handle reason => Sys2Proof.Machine.execHold port handle reason s
  | .lift port handle => Sys2Proof.Machine.execLift port handle s
  | .rest port => Sys2Proof.Machine.execRest port s
  | .wake port => Sys2Proof.Machine.execWake port s
  | .unknownCommand port code => Sys2Proof.Machine.execUnknownCommand port code s
  | .frameCheckFailure port => Sys2Proof.Machine.execFrameCheckFailure port s
  | .lineBlock port block => Sys2Proof.Machine.execLineBlock port block s
  | .blockToken port code => Sys2Proof.Machine.execBlockToken port code s
  | .strayByte port byte => Sys2Proof.Machine.execStrayByte port byte s
  | .linkUp port => Sys2Proof.Machine.execLinkUp port s
  | .linkLoss port => Sys2Proof.Machine.execLinkLoss port s
  | .deviceReset => Sys2Proof.Machine.execDeviceReset s
  | .powerOnReset => Sys2Proof.Machine.execPowerOnReset s
  | .lineCodingEnd => Sys2Proof.Machine.execLineCodingEnd s
  | .extentTake => Sys2Proof.Machine.execExtentTake s
  | .transferCompletion change => Sys2Proof.Machine.execTransferCompletion change s
  | .refreshCompletion => Sys2Proof.Machine.execRefreshCompletion s
  | .planeBandDecoded slot => Sys2Proof.Machine.execPlaneBandDecoded slot s
  | .refreshTimerExpiry => Sys2Proof.Machine.execRefreshTimerExpiry s
  | .bandWindowExpiry => Sys2Proof.Machine.execBandWindowExpiry s
  | .thermalReading sensor => Sys2Proof.Machine.execThermalReading sensor s
  | .frameSent port => Sys2Proof.Machine.execFrameSent port s

end Sys2Proof.Machine
end

