-- ==== Sys2Proof/WellFormed.lean ====
section
/-! DEFINITION. Which commands can reach the part at all: a frame's data is as long as its header says, a
stray byte is no mark, an unknown code is unknown, and a store change lies inside the store. -/

namespace Sys2Proof

/-- The marks that begin a frame at a port (R175). -/
def frameMarks : List Byte := [0xC3, 0x5A, 0x96]

/-- The command codes of Table 9-5. -/
def knownCodes : List Byte :=
  [0x01, 0x02, 0x03, 0x10, 0x11, 0x12, 0x18, 0x19, 0x1A, 0x1B, 0x20, 0x21, 0x22, 0x28, 0x29, 0x2A,
   0x30, 0x31]

/-- Whether a line block's data has the length its header announces (R175). -/
def LineBlock.wellFormed (b : LineBlock) : Bool :=
  b.data.length == if b.depth = 0x01 then (b.count.toNat + 1) / 2 else b.count.toNat

/-- Whether a store change names data bytes and index entries of the store (R27, R28). -/
def StoreChange.wellFormed (c : StoreChange) : Bool :=
  c.bytes.all (fun x => 384 * 65536 ≤ x.1 && x.1 < 32768 * 65536) &&
    c.entries.all (fun x => x.1 < 384 * 65536 && x.1 % 8 == 0)

/-- Whether a command can reach the part. -/
def Instr.wellFormed : Instr → Bool
  | .lineBlock _ b => b.wellFormed
  | .unknownCommand _ code => !knownCodes.contains code
  | .strayByte _ b => !frameMarks.contains b
  | .transferCompletion c => c.wellFormed
  | .thermalReading v => v.denominator != 0
  | .openPageContinue .. | .openPage .. | .status .. | .queryPage .. | .listPages .. | .sealPage ..
  | .abandonPage .. | .enqueue .. | .rebind .. | .release .. | .peekQueue .. | .start .. | .skip ..
  | .stop .. | .view .. | .hold .. | .lift .. | .rest .. | .wake .. | .frameCheckFailure ..
  | .blockToken .. | .linkUp .. | .linkLoss .. | .deviceReset | .powerOnReset | .lineCodingEnd
  | .extentTake | .refreshCompletion | .planeBandDecoded .. | .refreshTimerExpiry
  | .bandWindowExpiry | .frameSent .. => true

end Sys2Proof
end

