-- ==== Sys2Proof/Decode.lean ====
section
/-! DEFINITION. What a finished frame spells (R175, R176, R178, R179, R181, R183), the frame a master
sends for a command, and `decodeTableWord`: spec/opcode_table.json gives no row any bits. -/

namespace Sys2Proof

open Machine

/-- No row of spec/opcode_table.json has bits, so no word spells a command (log entry 11). -/
def decodeTableWord (_nbits _w : Nat) : Option Instr := none

namespace Decode

/-! ## Command frames -/

/-- Byte `i` of the parameter field (R176, R181). -/
def param (f : List Byte) (i : Nat) : Byte := f.getD (2 + i) 0

/-- The two-byte parameter at byte `i`. -/
def param16 (f : List Byte) (i : Nat) : Word16 := join16 (param f i) (param f (i + 1))

/-- OPEN_PAGE's parameter field (R181): the continue flag is the option byte's most significant bit, the
retention class the next, the planes its three least significant. -/
def readOpen (port : Port) (f : List Byte) : Instr :=
  let options := param f 1
  if options.getLsbD 7 then .openPageContinue port (param f 0)
  else .openPage port
    { handle := param f 0
      retention := if options.getLsbD 6 then .volatile else .keep
      planes := options.truncate 3
      bandHeight := param f 2
      width := param16 f 3
      height := param16 f 5
      tolerances := param f 7 ++ param f 8 ++ param f 9 }

/-- The command a frame with a good frame check spells (Table 9-9). -/
def readCommand (port : Port) (f : List Byte) : Cmd → Instr
  | .status      => .status port
  | .queryPage   => .queryPage port (param f 0) (param16 f 1)
  | .listPages   => .listPages port (param f 0) (param16 f 1)
  | .openPage    => readOpen port f
  | .sealPage    => .sealPage port
  | .abandonPage => .abandonPage port
  | .enqueue     => .enqueue port (param f 0) (param f 1)
  | .rebind      => .rebind port (param f 0) (param f 1)
  | .release     => .release port (param f 0) (param f 1)
  | .peekQueue   => .peekQueue port
  | .start       => .start port (param16 f 0) (param16 f 2) (param16 f 4) (param16 f 6)
  | .skip        => .skip port
  | .stop        => .stop port
  | .view        => .view port
      { handle := param f 0, planeMask := param f 1, firstBand := param16 f 2
        bandCount := param16 f 4, decimation := param f 6, depth := param f 7 }
  | .hold        => .hold port (param f 0) (param f 1)
  | .lift        => .lift port (param f 0)
  | .rest        => .rest port
  | .wake        => .wake port

/-- Whether a command frame passes its frame check (R176). -/
def frameCheckGood (f : List Byte) : Bool :=
  f.getD 12 0 == crc8 ((f.drop 1).take 11) && f.getD 13 0 == 0x3C

/-- What a command frame of 14 bytes is at a port: a failed frame, an unknown code or a command. -/
def commandFrame (port : Port) (f : List Byte) : Instr :=
  if frameCheckGood f then
    match Cmd.ofCode (f.getD 1 0) with
    | some c => readCommand port f c
    | none => .unknownCommand port (f.getD 1 0)
  else .frameCheckFailure port

/-! ## Line blocks and tokens -/

/-- The sample count in a line block's header. -/
def headerCount (f : List Byte) : Word16 := join16 (f.getD 6 0) (f.getD 7 0)

/-- How many data bytes a line block's header announces (R175). -/
def headerData (f : List Byte) : Nat := announcedData (f.getD 2 0) (headerCount f)

/-- What a finished line block spells (Table 9-7). -/
def readLineBlock (f : List Byte) : LineBlock where
  kind  := f.getD 1 0
  depth := f.getD 2 0
  plane := f.getD 3 0
  line  := join16 (f.getD 4 0) (f.getD 5 0)
  count := headerCount f
  data  := (f.drop 8).take (headerData f)
  crc   := join16 (f.getD (8 + headerData f) 0) (f.getD (9 + headerData f) 0)

/-! ## The receiver (R175) -/

/-- Whether the bytes of a frame, mark first, reach its extent. -/
def finished (f : List Byte) : Bool :=
  match f.head? with
  | some m =>
    if m = 0xC3 then f.length == 14
    else if m = 0x96 then f.length == 2
    else 8 ≤ f.length && f.length == 8 + headerData f + 2
  | none => false

/-- The command a finished frame spells at a port. -/
def frame (port : Port) (f : List Byte) : Instr :=
  match f.head? with
  | some m =>
    if m = 0xC3 then commandFrame port f
    else if m = 0x96 then .blockToken port (f.getD 1 0)
    else .lineBlock port (readLineBlock f)
  | none => .frameCheckFailure port

/-- One byte at a port's receiver: the receiver after it, and the command it completes, if any. -/
def receive (port : Port) (partialFrame : List Byte) (b : Byte) : List Byte × Option Instr :=
  if partialFrame = [] ∧ ¬ frameMarks.contains b then ([], some (.strayByte port b))
  else
    let f := partialFrame ++ [b]
    if finished f then ([], some (frame port f)) else (f, none)

/-! ## The frames a master sends -/

/-- A 14-byte command frame with these parameter bytes, zeros after them (R176). -/
def closeCommand (code : Byte) (params : List Byte) : List Byte :=
  let body := code :: params ++ List.replicate (10 - params.length) 0
  0xC3 :: body ++ [crc8 body, 0x3C]

/-- The bytes of a two-byte parameter. -/
def word (w : Word16) : List Byte := field16 w.toNat

/-- OPEN_PAGE's parameter field (R181), ignored bits zero. -/
def openField (p : OpenParams) : List Byte :=
  [p.handle, (if p.retention = .volatile then 0x40#8 else 0#8) ||| p.planes.zeroExtend 8, p.bandHeight] ++
    word p.width ++ word p.height ++
    [p.tolerances.extractLsb' 16 8, p.tolerances.extractLsb' 8 8, p.tolerances.extractLsb' 0 8]

/-- The frame by which a master sends a command, absent for the events no frame carries. -/
def masterFrame : Instr → Option (List Byte)
  | .status _ => some (closeCommand Cmd.status.code [])
  | .queryPage _ h e => some (closeCommand Cmd.queryPage.code (h :: word e))
  | .listPages _ f n => some (closeCommand Cmd.listPages.code (f :: word n))
  | .openPage _ p => some (closeCommand Cmd.openPage.code (openField p))
  | .openPageContinue _ h => some (closeCommand Cmd.openPage.code [h, 0x80])
  | .sealPage _ => some (closeCommand Cmd.sealPage.code [])
  | .abandonPage _ => some (closeCommand Cmd.abandonPage.code [])
  | .enqueue _ h n => some (closeCommand Cmd.enqueue.code [h, n])
  | .rebind _ o n => some (closeCommand Cmd.rebind.code [o, n])
  | .release _ a b => some (closeCommand Cmd.release.code [a, b])
  | .peekQueue _ => some (closeCommand Cmd.peekQueue.code [])
  | .start _ b l t w => some (closeCommand Cmd.start.code (word b ++ word l ++ word t ++ word w))
  | .skip _ => some (closeCommand Cmd.skip.code [])
  | .stop _ => some (closeCommand Cmd.stop.code [])
  | .view _ v => some (closeCommand Cmd.view.code
      (v.handle :: v.planeMask :: word v.firstBand ++ word v.bandCount ++ [v.decimation, v.depth]))
  | .hold _ h r => some (closeCommand Cmd.hold.code [h, r])
  | .lift _ h => some (closeCommand Cmd.lift.code [h])
  | .rest _ => some (closeCommand Cmd.rest.code [])
  | .wake _ => some (closeCommand Cmd.wake.code [])
  | .unknownCommand _ c => some (closeCommand c [])
  | .lineBlock _ b =>
    some (0x5A :: blockBody b.kind b.depth b.plane b.line.toNat b.count.toNat b.data ++ word b.crc)
  | .blockToken _ c => some [0x96, c]
  | .strayByte _ b => some [b]
  | .frameCheckFailure _ | .linkUp _ | .linkLoss _ | .deviceReset | .powerOnReset | .lineCodingEnd
  | .extentTake | .transferCompletion _ | .refreshCompletion | .planeBandDecoded _
  | .refreshTimerExpiry | .bandWindowExpiry | .thermalReading _ | .frameSent _ => none

end Decode

end Sys2Proof
end

