-- ==== Sys2Proof/Machine/Receive.lean ====
section
/-! DEFINITION. A port's receiver in the state (R170, R175): bytes of a link come in one by one, and each
finished frame and each stray byte joins the tail of the waiting commands. -/

namespace Sys2Proof.Machine

/-- One byte arrives on the link of a port. A DOWN port receives nothing (R174). -/
def State.receiveByte (s : State) (port : Port) (b : Byte) : State :=
  if (s.port port).state = .down then s
  else
    let x := Decode.receive port (s.port port).receiver b
    { s.updatePort port (fun r => { r with receiver := x.1 }) with
      pending := s.pending ++ x.2.toList }

/-- Bytes arrive on the link of a port, one after another. -/
def State.receiveBytes (s : State) (port : Port) (bytes : List Byte) : State :=
  bytes.foldl (fun s b => s.receiveByte port b) s

end Sys2Proof.Machine
end

