-- ==== Sys2Proof/Safety.lean ====
section
/-! DEFINITION. What a safe run keeps: the invariants of the part, each from the rule of spec/ it names, and
the words in which the statements about single commands are written. -/

namespace Sys2Proof

open Machine in
/-- The parameters of an OPEN_PAGE lie in the ranges of Table 1-1 (R1, R181). -/
def OpenParams.InRange (p : OpenParams) : Prop :=
  (1 ≤ p.planes.toNat ∧ p.planes.toNat ≤ 6) ∧ (16 ≤ p.width.toNat ∧ p.width.toNat ≤ 16384) ∧
    (16 ≤ p.height.toNat ∧ p.height.toNat ≤ 16384) ∧ (p.bandHeight = 8 ∨ p.bandHeight = 16) ∧
    (∀ j < p.planes.toNat, toleranceNibble p.tolerances j ≤ 7) ∧
    p.width.toNat * p.height.toNat * p.planes.toNat ≤ 536870912

open Machine in
/-- The port and the command of Table 9-5 of a command frame that passed its frame check; absent for the
other commands. Both forms of OPEN_PAGE carry its code (R181). -/
def Instr.commandFrame : Instr → Option (Port × Cmd)
  | .status p => some (p, .status)
  | .queryPage p _ _ => some (p, .queryPage)
  | .listPages p _ _ => some (p, .listPages)
  | .openPage p _ => some (p, .openPage)
  | .openPageContinue p _ => some (p, .openPage)
  | .sealPage p => some (p, .sealPage)
  | .abandonPage p => some (p, .abandonPage)
  | .enqueue p _ _ => some (p, .enqueue)
  | .rebind p _ _ => some (p, .rebind)
  | .release p _ _ => some (p, .release)
  | .peekQueue p => some (p, .peekQueue)
  | .start p _ _ _ _ => some (p, .start)
  | .skip p => some (p, .skip)
  | .stop p => some (p, .stop)
  | .view p _ => some (p, .view)
  | .hold p _ _ => some (p, .hold)
  | .lift p _ => some (p, .lift)
  | .rest p => some (p, .rest)
  | .wake p => some (p, .wake)
  | .unknownCommand .. | .frameCheckFailure _ | .lineBlock .. | .blockToken .. | .strayByte ..
  | .linkUp _ | .linkLoss _ | .deviceReset | .powerOnReset | .lineCodingEnd | .extentTake
  | .transferCompletion _ | .refreshCompletion | .planeBandDecoded _ | .refreshTimerExpiry
  | .bandWindowExpiry | .thermalReading _ | .frameSent _ => none

/-- Which bits of its parameter field a command frame reads, byte by byte from the field's first; a byte
past the list's end is not read (R176, R181). -/
def Instr.readBits : Instr → List Byte
  | .queryPage .. | .listPages .. => [0xFF, 0xFF, 0xFF]
  | .openPage .. => [0xFF, 0xC7, 0xFF, 0xFF, 0xFF, 0xFF, 0xFF, 0xFF, 0xFF, 0xFF]
  | .openPageContinue .. => [0xFF, 0x80]
  | .enqueue .. | .rebind .. | .release .. | .hold .. => [0xFF, 0xFF]
  | .start .. | .view .. => [0xFF, 0xFF, 0xFF, 0xFF, 0xFF, 0xFF, 0xFF, 0xFF]
  | .lift .. => [0xFF]
  | .status .. | .sealPage .. | .abandonPage .. | .peekQueue .. | .skip .. | .stop .. | .rest ..
  | .wake .. | .unknownCommand .. | .frameCheckFailure _ | .lineBlock .. | .blockToken ..
  | .strayByte .. | .linkUp _ | .linkLoss _ | .deviceReset | .powerOnReset | .lineCodingEnd
  | .extentTake | .transferCompletion _ | .refreshCompletion | .planeBandDecoded _
  | .refreshTimerExpiry | .bandWindowExpiry | .thermalReading _ | .frameSent _ => []

/-- The port whose link carries the bytes of a command, for the commands a master's bytes spell. -/
def Instr.sentTo : Instr → Option Port
  | .unknownCommand p _ => some p
  | .lineBlock p _ => some p
  | .blockToken p _ => some p
  | .strayByte p _ => some p
  | i => i.commandFrame.map (·.1)

end Sys2Proof

namespace Sys2Proof.Machine

/-! ## Invariants of one block -/

/-- The refresh debt always lies between −8 and +8 inclusive (R156). -/
def State.DebtInRange (s : State) : Prop := -8 ≤ s.sched.debt ∧ s.sched.debt ≤ 8

/-- The Compose port is never OUTBOUND, and the Press and Proof ports are never INBOUND (R184). -/
def State.RolesKept (s : State) : Prop :=
  s.compose.state ≠ .outbound ∧ s.press.state ≠ .inbound ∧ s.proof.state ≠ .inbound

/-- The queue holds at most 64 entries (R109). -/
def State.QueueBounded (s : State) : Prop := s.queue.length ≤ 64

/-- The last reading is absent or lies in −40..150 (R164). -/
def State.ReadingInRange (s : State) : Prop := ∀ r, s.lastReading = some r → -40 ≤ r ∧ r ≤ 150

/-- No block is outstanding while a late token is owed (R120, R131, R141, R147). -/
def State.LateExcludesOutstanding (s : State) : Prop :=
  (s.pressLate = true → ∀ d, s.delivery = some d → d.outstanding = none) ∧
    (s.proofLate = true → ∀ v, s.view = some v → v.outstanding = none)

/-- The free set is held in its canonical form. -/
def State.FreeSetWf (s : State) : Prop := spansWf s.freeSet

/-- The store's contents are held in their canonical form. -/
def State.StoreWf (s : State) : Prop := s.store.wf

/-- A DOWN port has nothing to send, no command outstanding and nothing half received (R172 to R174). -/
def PortRec.DownQuiet (r : PortRec) : Prop :=
  r.state = .down → r.transmit = [] ∧ r.outstanding = none ∧ r.receiver = []

def State.DownPortsQuiet (s : State) : Prop := ∀ p, (s.port p).DownQuiet

/-- How many replies a port's transmit list holds. -/
def PortRec.replies (r : PortRec) : Nat := r.transmit.countP (·.isReply)

/-- A port's list holds at most one reply, and only while its command is outstanding (R174, R183). -/
def PortRec.OneReply (r : PortRec) : Prop :=
  r.replies ≤ 1 ∧ (r.outstanding = none → r.replies = 0)

/-- Every port holds at most one reply, and a deferred command is outstanding with no reply yet (R88,
R174, R183). -/
def State.OneReplyEach (s : State) : Prop :=
  (∀ p, (s.port p).OneReply) ∧
    ∀ w d, s.encoder = some w → w.deferred = some d →
      s.compose.outstanding.isSome ∧ s.compose.replies = 0

/-! ## Invariants that tie blocks together -/

/-- The encoder is IDLE exactly while the Compose port is not INBOUND (R71). -/
def State.ComposeAgrees (s : State) : Prop := s.encoder.isSome ↔ s.compose.state = .inbound

/-- The Press port is OUTBOUND exactly while it holds a delivery record, the press channel is ACTIVE and
the head entry carries the delivering mark (R97, R109, R115). -/
def State.PressAgrees (s : State) : Prop :=
  (s.delivery.isSome ↔ s.press.state = .outbound) ∧
    (s.pressChannel.isSome ↔ s.delivery.isSome) ∧ (s.delivering = true ↔ s.delivery.isSome)

/-- The Proof port is OUTBOUND exactly while it holds a view record and the proof channel is ACTIVE
(R103, R138). -/
def State.ProofAgrees (s : State) : Prop :=
  (s.view.isSome ↔ s.proof.state = .outbound) ∧ (s.proofChannel.isSome ↔ s.view.isSome)

/-- The store mode agrees with the scheduler, with the retained set and with the ports: outside ACTIVE
every port is RESTING or DOWN; the drain is asked for exactly in ENTERING_REST; self-retention, the stopped
timer and the retained set belong to RETAINED, where nothing is granted and the debt is 0 or less (R161,
R162, R190, R191). -/
def State.RestAgrees (s : State) : Prop :=
  (s.mode ≠ .active → ∀ p, (s.port p).quiet = true) ∧
    (s.sched.drain = true ↔ s.mode = .enteringRest) ∧
    (s.sched.selfRetention = true ↔ s.mode = .retained) ∧
    (s.sched.timerRunning = false ↔ s.mode = .retained) ∧
    (s.retained.isSome ↔ s.mode = .retained) ∧
    (s.mode = .retained → s.sched.grant = none ∧ s.sched.debt ≤ 0)

/-- The ports, the encoder, the deliveries and rest control agree. -/
def State.BlocksAgree (s : State) : Prop :=
  s.RolesKept ∧ s.ComposeAgrees ∧ s.PressAgrees ∧ s.ProofAgrees ∧ s.RestAgrees

/-! ## The band code over a whole plane-band -/

/-- The coding state and the bit stream after a plane-band's rows, coded one line after another (R46). -/
def encodeRows (tol raw : Nat) (rows : List (List Byte)) : Coding × List Bool :=
  rows.foldl (fun x row => encodeLine tol raw row x.1 x.2) (Coding.initial, [])

/-- A plane-band decoded from its stored bytes, one store unit after another, under an index entry (R66,
R93); absent while it needs more units. -/
def decodeStored (p : DecodeShape) (e : IndexEntry) (units : List (List Byte)) : Option Verdict :=
  (units.foldl (fun d unit => Decoding.feed p e unit d) { Decoding.initial with entry := some e }).verdict p

/-- The rows of `width` samples that a staging buffer holds, `n` of them. -/
def stagedRows (width n : Nat) (staging : List Byte) : List (List Byte) :=
  (List.range n).map fun i => (staging.drop (i * width)).take width

/-! ## Invariants of the encoder -/

/-- The coding state and the output buffer are those of the first `n` staged rows (R46, R78). -/
def EncoderWork.CodedTo (w : EncoderWork) (p : Shape) (n : Nat) : Prop :=
  let x := encodeRows (p.tol (w.plane p)) (p.raw (w.band p)) (stagedRows p.width n w.staging)
  w.coding = some x.1 ∧ w.output = x.2

/-- A commit record agrees with the plane-band in the encoder's buffers and with the page's stream (R61,
R64, R80, R82). -/
def CommitOutcome.Agrees (o : CommitOutcome) (w : EncoderWork) (streamLength : Nat) : Prop :=
  let stored := match o.mode with
    | .coded => codedBytes w.output
    | .raw => w.staging
  (∃ c, w.coding = some c ∧ (o.mode = .raw ↔ c.stopped = true)) ∧
    o.length = stored.length ∧ o.check = crc16 stored ∧ o.offset = streamLength ∧
    1 ≤ o.writesRemaining ∧ o.writesRemaining ≤ unitCount o.offset o.length + 1

/-- The encoder's buffers (Table 4-1, R71, R72, R78, R80): the staging buffer holds the staged lines whole;
the coding state and the output buffer are those of the lines coded so far; a plane-band is complete in
COMMITTING alone; and the commit record agrees with the buffers. -/
def EncoderWork.Kept (w : EncoderWork) (p : Shape) (streamLength : Nat) : Prop :=
  let lines := p.bandLines (w.band p)
  w.staging.length = w.stagedLines * p.width ∧
    match w.phase with
    | .ready => w.stagedLines < lines ∧ (0 < w.stagedLines → w.CodedTo p w.stagedLines)
    | .lineCoding => 0 < w.stagedLines ∧ w.stagedLines < lines ∧ w.CodedTo p (w.stagedLines - 1)
    | .committing .finishing => 0 < lines ∧ w.stagedLines = lines ∧ w.CodedTo p (lines - 1)
    | .committing (.writing o) =>
      0 < lines ∧ w.stagedLines = lines ∧ w.CodedTo p lines ∧ o.Agrees w streamLength
    | .complete => w.stagedLines = 0

/-- The encoder's buffers agree with the FILLING page's shape and stream length. -/
def State.EncoderKept (s : State) : Prop :=
  ∀ w, s.encoder = some w → w.Kept (s.page w.handle).shape (s.page w.handle).streamLength

/-! ## Invariants of the directory -/

/-- A shape in the ranges of Table 1-1 (R1). -/
def Shape.InRange (p : Shape) : Prop :=
  (1 ≤ p.planes ∧ p.planes ≤ 6) ∧ (16 ≤ p.width ∧ p.width ≤ 16384) ∧
    (16 ≤ p.height ∧ p.height ≤ 16384) ∧ (p.bandHeight = 8 ∨ p.bandHeight = 16) ∧
    (∀ t ∈ p.tolerances.toList, t ≤ 7) ∧ p.width * p.height * p.planes ≤ 536870912

/-- Every page that is not FREE has a shape in range (R1). -/
def State.ShapesInRange (s : State) : Prop :=
  ∀ h, (s.page h).state ≠ .free → (s.page h).shape.InRange

/-- A FREE record holds its reset values (R3), and a LOST page owns no extents and has a stream length of
0 (R13). -/
def PageRecord.StateKept (r : PageRecord) : Prop :=
  (r.state = .free → r = PageRecord.free) ∧ (r.state = .lost → r.extents = [] ∧ r.streamLength = 0)

/-- A FILLING page is not held, not release pending, not damaged and has no references (R5, R8, R10). -/
def PageRecord.FillingBare (r : PageRecord) : Prop :=
  r.state = .filling →
    r.references = 0 ∧ r.holdReason = none ∧ r.releasePending = false ∧ r.firstDamaged = none

/-- A held page is not release pending (R14), and a release-pending page has references (R18, R19). -/
def PageRecord.MarksKept (r : PageRecord) : Prop :=
  (r.holdReason.isSome → r.releasePending = false) ∧ (r.releasePending = true → 0 < r.references)

/-- committed never exceeds bands × P, and equals it in a SEALED page (R9). -/
def PageRecord.CommittedKept (r : PageRecord) : Prop :=
  r.committed ≤ r.shape.positions ∧ (r.state = .sealed → r.committed = r.shape.positions)

/-- The encoder's position is the FILLING page's committed count, absent exactly when all is committed
(R71, R72). -/
def EncoderWork.Expects (w : EncoderWork) (r : PageRecord) : Prop :=
  w.expected = r.expectedPosition ∧ (w.phase = .complete ↔ r.committed = r.shape.positions)

/-- How many references a page has from a running view. -/
def State.viewRefs (s : State) (h : Handle) : Nat :=
  if s.view.any (·.handle == h) then 1 else 0

/-- The directory's invariants: the records as above; at most one page FILLING, the encoder's (R5); every
reference count the number of queue entries naming the page plus one for a running view (R17); queued pages
SEALED or DAMAGED (R109); a viewed page readable (R135); the head is the page being delivered (R109). -/
def State.DirectoryKept (s : State) : Prop :=
  (∀ h, (s.page h).StateKept ∧ (s.page h).FillingBare ∧ (s.page h).MarksKept ∧
      (s.page h).CommittedKept) ∧
    (∀ h, (s.page h).state = .filling ↔ ∃ w, s.encoder = some w ∧ w.handle = h) ∧
    (∀ w, s.encoder = some w → w.Expects (s.page w.handle)) ∧
    (∀ h, (s.page h).references = s.queue.count h + s.viewRefs h) ∧
    (∀ h ∈ s.queue, (s.page h).state = .sealed ∨ (s.page h).state = .damaged) ∧
    (∀ v, s.view = some v → (s.page v.handle).state = .sealed ∨ (s.page v.handle).state = .damaged ∨
      (s.page v.handle).state = .torn) ∧
    (∀ d, s.delivery = some d → s.queue.head? = some d.handle) ∧
    (∀ d c, s.delivery = some d → s.pressChannel = some c → c.handle = d.handle) ∧
    (∀ v c, s.view = some v → s.proofChannel = some c → c.handle = v.handle) ∧
    s.freeRecords = s.pages.toList.countP fun r => r.state == .free

/-- How many places an extent is in: the free set, and the extent lists (R39). -/
def State.placesOf (s : State) (e : Nat) : Nat :=
  (if isFree s.freeSet e then 1 else 0) + (s.pages.toList.map fun r => r.extents.count e).sum

/-- Each data extent is in exactly one place, the index extents are in none, and a commit's extents are the
tail of its page's list (R4, R39). -/
def State.ExtentsPlaced (s : State) : Prop :=
  (∀ e, s.placesOf e = if 384 ≤ e ∧ e ≤ 32767 then 1 else 0) ∧
    ∀ w o, s.encoder = some w → w.phase = .committing (.writing o) →
      ∃ before, (s.page w.handle).extents = before ++ o.extentsTaken

/-! ## Invariants of the store's transfers -/

/-- Whether an index entry passes the first three findings of Table 3-10 (R67, R92). -/
def soundEntry (e : IndexEntry) (raw streamLength : Nat) : Prop :=
  1 ≤ e.length ∧ e.length ≤ raw ∧ e.offset + e.length ≤ streamLength ∧ (e.mode = .raw → e.length = raw)

/-- A transfer's unit is a unit of the store (R27, R33). -/
def namesUnit (addr : Option UnitAddr) : Prop := ∃ u, addr = some u ∧ u.present = true

/-- The stored length and the extents of the commit whose writes are under way on a page, 0 and none with
no such commit. -/
def State.inFlight (s : State) (h : Handle) : Nat × List Nat :=
  match s.encoder with
  | some w =>
    match w.phase with
    | .committing (.writing o) => if w.handle = h then (o.length, o.extentsTaken) else (0, [])
    | _ => (0, [])
  | none => (0, [])

/-- A page's extent list covers its stream and nothing more: it holds ceil(stream length / 65536) entries,
and behind them those taken for the commit in flight, which cover its stored bytes (R4, R81). -/
def State.ExtentsCover (s : State) (h : Handle) : Prop :=
  let r := s.page h
  r.extents.length = (r.streamLength + 65535) / 65536 + (s.inFlight h).2.length ∧
    r.extents.length = (r.streamLength + (s.inFlight h).1 + 65535) / 65536

/-- A band and a plane of a page (R2). -/
def Shape.Has (p : Shape) (band plane : Nat) : Prop := band < p.bands ∧ plane < p.planes

/-- The index entry a plane-band has read passed the findings of Table 3-10 (R67, R92). -/
def Decoding.EntrySound (d : Decoding) (raw streamLength : Nat) : Prop :=
  ∀ e, d.entry = some e → soundEntry e raw streamLength

/-- The decode channels work on plane-bands of their pages (R98, R99, R103, R104). -/
def State.ChannelsPlaced (s : State) : Prop :=
  (∀ c, s.pressChannel = some c → c.shape = (s.page c.handle).shape ∧
    ∀ k band plane work planes, c.buffer k = .decoding band plane work planes →
      c.shape.Has band plane ∧ work.EntrySound (c.shape.raw band) (s.page c.handle).streamLength) ∧
  ∀ c v, s.proofChannel = some c → s.view = some v → c.shape = (s.page c.handle).shape ∧
    v.endBand ≤ c.shape.bands ∧ (∀ j ∈ v.planeMask, j < c.shape.planes) ∧ v.planeMask ≠ [] ∧
    c.shape.Has c.band c.plane ∧
    ∀ work, c.buffer = .decoding work →
      work.EntrySound (c.shape.raw c.band) (s.page c.handle).streamLength

/-- Every request and every transfer in progress names a unit of the store (R27, R33, R150). -/
def Scheduler.UnitsNamed (c : Scheduler) : Prop :=
  (∀ q, c.pressReq = some q → namesUnit q.addr) ∧ (∀ q, c.encoderReq = some q → namesUnit q.addr) ∧
    (∀ q, c.proofReq = some q → namesUnit q.addr) ∧
    ∀ g, c.grant = some g → match g with
      | .press q _ => namesUnit q.addr
      | .encoder q _ => namesUnit q.addr
      | .proof q _ => namesUnit q.addr
      | .refresh => True

/-- What keeps every transfer inside the store: extent lists cover their streams (R4), damage is marked at
a band of its page (R12), the channels work inside their pages, and requests name units of the store. -/
def State.UnitsKept (s : State) : Prop :=
  (∀ h, s.ExtentsCover h) ∧ (∀ h n, (s.page h).firstDamaged = some n → n < (s.page h).shape.bands) ∧
    s.ChannelsPlaced ∧ s.sched.UnitsNamed

/-! ## Words for the statements about one command -/

/-- The port takes the command (R183, R184): it is not DOWN, no command is outstanding, and the command
is allowed on it in its state. -/
def State.takes (s : State) (p : Port) (c : Cmd) : Prop :=
  (s.port p).state ≠ .down ∧ (s.port p).outstanding = none ∧ c.allowed p (s.port p).state = true

/-- A port that has taken a command and answered it, now in state `st` (R177, R183). -/
def PortRec.answered (r : PortRec) (st : PortState) (code : Byte) (result : Result)
    (payload : List Byte) : PortRec :=
  { r with state := st
           outstanding := some code
           transmit := r.transmit ++ [.reply code result st payload] }

/-- `s` with a command taken and answered at a port whose state stays, and nothing else changed. -/
def State.answer (s : State) (p : Port) (c : Cmd) (result : Result) (payload : List Byte) : State :=
  s.setPort p ((s.port p).answered (s.port p).state c.code result payload)

/-- `s` with the STRAY flag of a port set, and nothing else changed (R186). -/
def State.strayed (s : State) (p : Port) : State := s.setPort p { s.port p with stray := true }

/-- `s` with a frame at the tail of a port's transmit list, and nothing else changed (R174). -/
def State.sent (s : State) (p : Port) (f : Frame) : State :=
  s.setPort p { s.port p with transmit := (s.port p).transmit ++ [f] }

/-- A page's flag byte: held, release pending, damaged, from the least significant bit (R182). -/
def PageRecord.flagBits (r : PageRecord) : Byte :=
  BitVec.ofNat 8
    (r.holdReason.isSome.toNat + 2 * r.releasePending.toNat + 4 * r.firstDamaged.isSome.toNat)

/-- RELEASE's classes of records (Table 1-7). -/
inductive ReleaseClass where
  | skipped
  | busy
  | held
  | pending
  | freed
  deriving DecidableEq, Repr

/-- The class of a record as RELEASE finds it, the first row of Table 1-7 that fits. -/
def PageRecord.releaseClass (r : PageRecord) : ReleaseClass :=
  if r.state = .free then .skipped
  else if r.state = .filling then .busy
  else if r.holdReason.isSome then .held
  else if 0 < r.references then .pending
  else .freed

/-- The reads of a press delivery are withdrawn and a granted one is handed to no one (R94, R102). -/
def Scheduler.withoutPress (c : Scheduler) : Scheduler :=
  (c.withdrawRead (.press .a)).withdrawRead (.press .b)

/-- The state after an ending of a press delivery with an outcome other than DONE (R125): the end notice,
the channel IDLE, the mark cleared, a late token owed for an outstanding block, the record gone, the port
IDLE, and nothing else changed. -/
def State.pressEnded (s : State) (d : Delivery) (e : Ending) (resume : Nat) : State :=
  { s with
    press := { s.press with state := .idle
                            transmit := s.press.transmit ++ [.endNotice e d.handle resume] }
    pressLate := s.pressLate || d.outstanding.isSome
    pressChannel := none
    delivery := none
    delivering := false
    sched := s.sched.withoutPress }

/-- The state after an ending of a view with an outcome (R142): the end notice, the channel IDLE, the
view's reference dropped, a late token owed for an outstanding block, the record gone, the port IDLE, and
nothing else changed. -/
def State.viewEnded (s : State) (v : ViewRecord) (e : Ending) (resume : Nat) : State :=
  { s.dropRefs v.handle 1 with
    proof := { s.proof with state := .idle
                            transmit := s.proof.transmit ++ [.endNotice e v.handle resume] }
    proofLate := s.proofLate || v.outstanding.isSome
    proofChannel := none
    view := none
    sched := s.sched.withdrawRead .proof }

/-- Whether a commit is in flight (Table 4-2). -/
def EncoderPhase.isCommitting : EncoderPhase → Bool
  | .committing _ => true
  | _ => false

/-- A record once damage at band `n` has been reported (R12). -/
def PageRecord.damagedAt (r : PageRecord) (n : Nat) : PageRecord :=
  { r with firstDamaged := some (match r.firstDamaged with | none => n | some m => min n m)
           state := if r.state = .sealed then .damaged else r.state }

/-- The state after the press channel has found damage at band `n` (R95, R101, Table 5-3): the page is
marked, the stop band falls to `n`, every buffer at or above it is discarded with its read withdrawn, and
with no lower band held the delivery ends DAMAGED at the stop band. -/
def State.pressDamaged (s : State) (c : PressChannel) (d : Delivery) (n : Nat) : State :=
  let stop := match c.stopBand with | none => n | some m => min n m
  let kept := fun x : BandBuffer => x.band.any fun b => b < stop
  let a := if kept c.bufferA then c.bufferA else .empty
  let b := if kept c.bufferB then c.bufferB else .empty
  let c1 := if a = .empty then s.sched.withdrawRead (.press .a) else s.sched
  let c2 := if b = .empty then c1.withdrawRead (.press .b) else c1
  let t := { s.setPage c.handle ((s.page c.handle).damagedAt n) with
    sched := c2
    pressChannel := some { c with stopBand := some stop, bufferA := a, bufferB := b } }
  if kept a ∨ kept b then t else t.pressEnded d .damaged stop

/-- The state after the proof channel has found damage at its band (R95, R105, R146). -/
def State.viewDamaged (s : State) (c : ProofChannel) (v : ViewRecord) : State :=
  (s.setPage c.handle ((s.page c.handle).damagedAt c.band)).viewEnded v .damaged c.band

/-- The store's contents and the free store of a transfer's completion (R36, R153, R154). -/
def State.transferred (s : State) (store : Memory) : State :=
  { s with store := store, sched := { s.sched with grant := none } }

/-- The blocks that follow `b` under a rule for the next block, `n` of them at most. -/
def followed {α : Type} (next : α → Option α) : Nat → Option α → List α
  | 0, _ => []
  | _ + 1, none => []
  | n + 1, some b => b :: followed next n (next b)

/-! ## The grant order (Table 8-2) -/

/-- The candidates for a grant, in the order of Table 8-2. -/
inductive Candidate where
  | forcedRefresh
  | pressTransfer
  | owedRefresh
  | encoderTransfer
  | proofTransfer
  | pullIn
  deriving DecidableEq, Repr

/-- The candidates, first to last. -/
def grantOrder : List Candidate :=
  [.forcedRefresh, .pressTransfer, .owedRefresh, .encoderTransfer, .proofTransfer, .pullIn]

/-- When a candidate is eligible (Table 8-2, R159, R161). -/
def Scheduler.eligible (c : Scheduler) (t : Thermal) : Candidate → Bool
  | .forcedRefresh => c.debt == 8
  | .pressTransfer => c.pressReq.isSome
  | .owedRefresh => 1 ≤ c.debt
  | .encoderTransfer => c.encoderReq.isSome && t != .hot
  | .proofTransfer => c.proofReq.isSome && t != .hot
  | .pullIn =>
    -8 < c.debt && !c.drain && !c.pressReq.isSome && !(c.encoderReq.isSome && t != .hot) &&
      !(c.proofReq.isSome && t != .hot)

/-- The scheduler once a candidate has been granted (R150, R151, R156). -/
def Scheduler.granted (c : Scheduler) : Candidate → Scheduler
  | .forcedRefresh | .owedRefresh | .pullIn => { c with grant := some .refresh, debt := c.debt - 1 }
  | .pressTransfer => { c with grant := c.pressReq.map (.press · true), pressReq := none }
  | .encoderTransfer => { c with grant := c.encoderReq.map (.encoder · true), encoderReq := none }
  | .proofTransfer => { c with grant := c.proofReq.map (.proof · true), proofReq := none }

end Sys2Proof.Machine
end

