-- ==== Sys2Proof/Certificates/Slice0/Obligations.lean ====
section
/-! DEFINITION. The statements for the provers. -/

open Sys2Proof Sys2Proof.Machine

/-! ## The machine -/

/-- A step takes the command at the front of the queue and runs exec on it with the queue's rest; with no
command waiting the part idles, which is the model's own choice (log entry 5). -/
def Obligations.StepTakesFrontCommand : Prop :=
  (∀ (c : Instr) (rest : List Instr) (s : State),
    step { s with pending := c :: rest } = exec c { s with pending := rest }) ∧
  ∀ s : State, step { s with pending := [] } = .next { s with pending := [] }

/-- Power-on reset, from whatever state, leaves the values of R24, R37, R43, R91, R107, R110, R134, R138,
R163, R168, R173 and R194. The model's own: a FREE record's class is KEEP (log entry 13), every receiver is
between frames (log entry 10), each segment's count of undefined contents rises, so that nothing it held is
read again (R37, log entry 1), and the commands still waiting outside the part stay (log entry 20). -/
def Obligations.PowerOnResetClearsEverything : Prop :=
  ∀ s : State, ∃ t, exec .powerOnReset s = .next t ∧
    (∀ p, (t.port p).state = .down ∧ (t.port p).outstanding = none ∧ (t.port p).transmit = [] ∧
      (t.port p).frameCheck = false ∧ (t.port p).stray = false ∧ (t.port p).receiver = []) ∧
    t.pressLate = false ∧ t.proofLate = false ∧
    (∀ h, t.page h = PageRecord.free) ∧ t.freeRecords = 256 ∧
    (∀ e, isFree t.freeSet e = true ↔ 384 ≤ e ∧ e ≤ 32767) ∧ freeCount t.freeSet = 32384 ∧
    t.store = ⟨[], []⟩ ∧ (∀ g : Fin 8, t.undefinedDraws[g] = s.undefinedDraws[g] + 1) ∧
    t.queue = [] ∧ t.delivering = false ∧ t.encoder = none ∧
    t.pressChannel = none ∧ t.proofChannel = none ∧ t.delivery = none ∧ t.view = none ∧
    t.sched = { grant := none, pressReq := none, encoderReq := none, proofReq := none, debt := 0
                timerRunning := true, interval := 780, refreshMissed := false, drain := false
                selfRetention := false } ∧
    t.lastReading = none ∧ t.thermal = .normal ∧ t.mode = .active ∧ t.retained = none ∧
    t.pending = s.pending

/-- The state after reset meets every invariant of the model. -/
def Obligations.ResetMeetsInvariants : Prop :=
  State.reset.DebtInRange ∧ State.reset.QueueBounded ∧ State.reset.ReadingInRange ∧
    State.reset.LateExcludesOutstanding ∧ State.reset.FreeSetWf ∧ State.reset.StoreWf ∧
    State.reset.DownPortsQuiet ∧ State.reset.OneReplyEach ∧ State.reset.BlocksAgree ∧
    State.reset.DirectoryKept ∧ State.reset.ExtentsPlaced ∧ State.reset.ShapesInRange ∧
    State.reset.EncoderKept ∧ State.reset.UnitsKept

/-! ## Judging what arrives at a port (R183 to R186) -/

/-- Table 9-12, row by row, and every command frame in the order of Table 9-11 (R183, R184): a DOWN port
receives nothing; a frame that finds a command outstanding sets STRAY and is not answered; a command outside
Table 9-12 is answered ILLEGAL; in each case nothing else changes. -/
def Obligations.CommandFramesJudgedInOrder : Prop :=
  (∀ (c : Cmd) (p : Port) (st : PortState), c.allowed p st = true ↔
    match c with
    | .status | .queryPage | .listPages => st ≠ .down
    | .openPage => p = .compose ∧ st = .idle
    | .sealPage | .abandonPage => p = .compose ∧ st = .inbound
    | .enqueue | .rebind | .release => p = .compose ∧ (st = .idle ∨ st = .inbound)
    | .peekQueue => p ≠ .proof ∧ (st = .idle ∨ st = .inbound ∨ st = .outbound)
    | .start | .skip => p = .press ∧ st = .idle
    | .stop => p ≠ .compose ∧ st = .outbound
    | .view => p = .proof ∧ st = .idle
    | .hold | .lift => p = .proof ∧ (st = .idle ∨ st = .outbound)
    | .rest => st = .idle
    | .wake => st = .resting) ∧
  ∀ (i : Instr) (p : Port) (c : Cmd) (s : State), i.commandFrame = some (p, c) →
    ((s.port p).state = .down → exec i s = .next s) ∧
    ((s.port p).state ≠ .down → (s.port p).outstanding ≠ none → exec i s = .next (s.strayed p)) ∧
    ((s.port p).state ≠ .down → (s.port p).outstanding = none →
      c.allowed p (s.port p).state = false → exec i s = .next (s.answer p c .illegal []))

/-- UNKNOWN_COMMAND, FRAME_CHECK_FAILURE and STRAY_BYTE at a port that is not DOWN (R183, R185, R186). -/
def Obligations.BadTrafficSetsOnlyFlags : Prop :=
  ∀ (p : Port) (b : Byte) (s : State), (s.port p).state ≠ .down →
    exec (.unknownCommand p b) s = .next
      (if (s.port p).outstanding = none then
        s.setPort p ((s.port p).answered (s.port p).state b .illegal [])
      else s.strayed p) ∧
    exec (.frameCheckFailure p) s = .next (s.setPort p { s.port p with frameCheck := true }) ∧
    exec (.strayByte p b) s = .next (s.strayed p)

/-- STATUS (R188): taken in every port state but DOWN, answered with the 12 bytes of Table 9-14, after
which the port's two flags are clear and nothing else has changed; the codes of the store mode and of the
thermal class. -/
def Obligations.StatusReportsAndClearsFlags : Prop :=
  (∀ m : StoreMode, m.code = match m with | .active => 0x00 | .enteringRest => 0x01 | .retained => 0x02) ∧
  (∀ t : Thermal, t.code = match t with | .cool => 0x00 | .normal => 0x01 | .warm => 0x02 | .hot => 0x03) ∧
  ∀ (p : Port) (s : State), (s.port p).state ≠ .down → (s.port p).outstanding = none →
    let r := s.port p
    let payload : List Byte :=
      [r.state.code,
        BitVec.ofNat 8 (r.frameCheck.toNat + 2 * r.stray.toNat + 4 * s.sched.refreshMissed.toNat),
        s.mode.code, s.thermal.code] ++
      (match s.lastReading with
        | none => [0x80, 0x00]
        | some t => field16 (BitVec.ofInt 16 t).toNat) ++
      [BitVec.ofInt 8 s.sched.debt] ++ field16 (freeCount s.freeSet) ++ field16 s.freeRecords ++
      [BitVec.ofNat 8 s.queue.length]
    payload.length = 12 ∧
      exec (.status p) s = .next (s.setPort p
        { r with outstanding := some 0x01
                 transmit := r.transmit ++ [.reply 0x01 .ok r.state payload]
                 frameCheck := false
                 stray := false })

/-- FRAME_SENT (R174, R183): the oldest frame leaves the transmit list, and a reply that leaves ends its
command's outstanding status; nothing else changes. Then the bytes of every frame the part sends, with the
codes of the results, the port states but DOWN, which has none (log entry 9), the tokens, the outcomes and
the blocks (R177 to R179). -/
def Obligations.FrameSentRemovesOldest : Prop :=
  (∀ (p : Port) (s : State) (f : Frame) (rest : List Frame), (s.port p).transmit = f :: rest →
    exec (.frameSent p) s = .next (s.setPort p
      { s.port p with transmit := rest
                      outstanding := match f with
                        | .reply .. => none
                        | _ => (s.port p).outstanding })) ∧
  (∀ (code : Byte) (result : Result) (port : PortState) (payload : List Byte), port ≠ .down →
    let resultCode : Byte := match result with
      | .ok => 0x00 | .illegal => 0x01 | .param => 0x02 | .noPage => 0x03 | .state => 0x04
      | .directoryFull => 0x05 | .queueFull => 0x06 | .held => 0x07 | .incomplete => 0x08
      | .partialRelease => 0x09 | .queueEmpty => 0x0A
    let portCode : Byte := match port with
      | .idle => 0x01 | .inbound => 0x02 | .outbound => 0x03 | _ => 0x04
    let n := payload.length
    let body := [code, resultCode, portCode, BitVec.ofNat 8 (n / 256), BitVec.ofNat 8 (n % 256)] ++ payload
    (Frame.reply code result port payload).bytes =
      0xA5 :: body ++ [(crc16 body).extractLsb' 8 8, (crc16 body).extractLsb' 0 8]) ∧
  (∀ t : Token, (Frame.token t).bytes =
    [0x96, match t with
      | .accept => 0x01 | .rejectCheck => 0x02 | .rejectOrder => 0x03 | .rejectFull => 0x04]) ∧
  (∀ (kind : BlockKind) (depth : Depth) (plane line count : Nat) (data : List Byte),
    let body : List Byte :=
      [match kind with | .page => 0x00 | .margin => 0x01, match depth with | .full => 0x00 | .draft4 => 0x01,
        BitVec.ofNat 8 plane, BitVec.ofNat 8 (line / 256), BitVec.ofNat 8 (line % 256),
        BitVec.ofNat 8 (count / 256), BitVec.ofNat 8 (count % 256)] ++ data
    (Frame.block kind depth plane line count data).bytes =
      0x5A :: body ++ [(crc16 body).extractLsb' 8 8, (crc16 body).extractLsb' 0 8]) ∧
  ∀ (ending : Ending) (handle : Handle) (resume : Nat),
    let body : List Byte :=
      [match ending with
        | .done => 0x00 | .stopped => 0x01 | .underrun => 0x02 | .rejected => 0x03 | .damaged => 0x04,
        handle, BitVec.ofNat 8 (resume / 256), BitVec.ofNat 8 (resume % 256)]
    (Frame.endNotice ending handle resume).bytes = 0x69 :: body ++ [crc8 body]

/-! ## The page directory -/

/-- QUERY_PAGE (R22, Table 9-10), the page state codes (R182), and the fields of two and four bytes, most
significant first. That PARAM is judged before NO_PAGE is
the model's reading (log entry 12). -/
def Obligations.QueryPageReportsRecord : Prop :=
  (∀ x : PageState, x.code = match x with
    | .free => 0x00 | .filling => 0x01 | .sealed => 0x02 | .torn => 0x03 | .damaged => 0x04
    | .lost => 0x05) ∧
  (∀ n : Nat,
    field16 n = [BitVec.ofNat 8 (n / 256), BitVec.ofNat 8 (n % 256)] ∧
      field32 n = [BitVec.ofNat 8 (n / 16777216), BitVec.ofNat 8 (n / 65536 % 256),
        BitVec.ofNat 8 (n / 256 % 256), BitVec.ofNat 8 (n % 256)]) ∧
  ∀ (p : Port) (h : Handle) (e : Word16) (s : State),
    (s.port p).state ≠ .down → (s.port p).outstanding = none →
    let r := s.page h
    let shown := (r.extents.drop e.toNat).take 256
    exec (.queryPage p h e) s = .next
      (if 8191 < e.toNat then s.answer p .queryPage .param []
      else if r.state = .free then s.answer p .queryPage .noPage []
      else s.answer p .queryPage .ok
        ([h, r.state.code, r.flagBits, BitVec.ofNat 8 r.planes, BitVec.ofNat 8 r.bandHeight] ++
          field16 r.width ++ field16 r.height ++
          field16 ((r.height + r.bandHeight - 1) / r.bandHeight) ++
          [BitVec.ofNat 8 (16 * r.tolerances[0] + r.tolerances[1]),
            BitVec.ofNat 8 (16 * r.tolerances[2] + r.tolerances[3]),
            BitVec.ofNat 8 (16 * r.tolerances[4] + r.tolerances[5]),
            (if r.retention = .keep then 0x00 else 0x01)] ++
          field16 r.committed ++ field32 r.streamLength ++
          [BitVec.ofNat 8 r.references, r.holdReason.getD 0xFF] ++
          field16 (r.firstDamaged.getD 0xFFFF) ++ field16 r.extents.length ++ field16 e.toNat ++
          shown.flatMap field16))

/-- LIST_PAGES (R23): PARAM for a count of 0 or above 256, else one entry for each handle from first to
the smaller of first + count − 1 and 255, ascending. -/
def Obligations.ListPagesReportsRecords : Prop :=
  ∀ (p : Port) (first : Handle) (count : Word16) (s : State),
    (s.port p).state ≠ .down → (s.port p).outstanding = none →
    let named := (List.range 256).filter fun h =>
      decide (first.toNat ≤ h ∧ h ≤ min (first.toNat + count.toNat - 1) 255)
    exec (.listPages p first count) s = .next
      (if count.toNat = 0 ∨ 256 < count.toNat then s.answer p .listPages .param []
      else s.answer p .listPages .ok
        (field16 named.length ++ named.flatMap fun h =>
          let r := s.page (BitVec.ofNat 8 h)
          [BitVec.ofNat 8 h, r.state.code, r.flagBits]))

/-- HOLD (R14): the checks in the rule's order, then the reason is set and nothing else changes. That
PARAM is judged before STATE is the model's reading (log entry 12). -/
def Obligations.HoldSetsReason : Prop :=
  ∀ (h : Handle) (reason : Byte) (s : State), s.takes .proof .hold →
    let r := s.page h
    exec (.hold .proof h reason) s = .next
      (if reason = 0 then s.answer .proof .hold .param []
      else if r.state = .free ∨ r.state = .filling ∨ r.releasePending = true then
        s.answer .proof .hold .state []
      else (s.setPage h { r with holdReason := some reason }).answer .proof .hold .ok [])

/-- LIFT (R15): from the Proof port alone, always answered OK; a held page's reason becomes absent, and a
record that is not held does not change. -/
def Obligations.LiftClearsReason : Prop :=
  ∀ (h : Handle) (s : State),
    (s.takes .proof .lift →
      exec (.lift .proof h) s = .next
        ((s.setPage h { s.page h with holdReason := none }).answer .proof .lift .ok [])) ∧
    ((s.page h).holdReason = none → s.setPage h { s.page h with holdReason := none } = s) ∧
    (∀ p, p ≠ .proof → ¬ s.takes p .lift)

/-- RELEASE (R18): every handle of the range by its row of Table 1-7 as found before the command, the four
counts, OK or PARTIAL; no other record changes, and the freed pages' extents, and only they, become free.
A FREE record's class KEEP is the model's reading (log entry 13). -/
def Obligations.ReleaseTreatsTheRange : Prop :=
  ∀ (a b : Handle) (s : State), s.takes .compose .release → s.FreeSetWf →
    let named := allHandles.filter fun h => decide (a.toNat ≤ h.toNat ∧ h.toNat ≤ b.toNat)
    let count := fun k => named.countP fun h => (s.page h).releaseClass == k
    (b.toNat < a.toNat →
      exec (.release .compose a b) s = .next (s.answer .compose .release .param [])) ∧
    (a.toNat ≤ b.toNat →
      ∃ t, exec (.release .compose a b) s = .next t ∧
        (∀ h, t.page h =
          if h ∈ named then
            match (s.page h).releaseClass with
            | .freed => PageRecord.free
            | .pending => { s.page h with releasePending := true }
            | _ => s.page h
          else s.page h) ∧
        (∀ e : Nat, isFree t.freeSet e = true ↔ isFree s.freeSet e = true ∨
          ∃ h ∈ named, (s.page h).releaseClass = .freed ∧ e ∈ (s.page h).extents) ∧
        t.freeRecords = s.freeRecords + count .freed ∧
        t = { s with
          pages := t.pages
          freeSet := t.freeSet
          freeRecords := t.freeRecords
          compose := s.compose.answered s.compose.state 0x1A
            (if count .busy = 0 ∧ count .held = 0 then .ok else .partialRelease)
            (field16 (count .freed) ++ field16 (count .pending) ++ field16 (count .busy) ++
              field16 (count .held)) })

/-- References that end (R17, R19): the count falls by their number; a release-pending page whose count so
reaches 0 is freed in the same event: its extents, and only they, join the free set, the record takes its
FREE reset values (class KEEP by log entry 13), and the count of FREE records rises by one. Nothing else
changes. -/
def Obligations.LastReferenceFreesPendingPage : Prop :=
  ∀ (s : State) (h : Handle) (n : Nat), s.FreeSetWf → 0 < n → n ≤ (s.page h).references →
    let t := s.dropRefs h n
    let freed := (s.page h).releasePending = true ∧ (s.page h).references = n
    (¬ freed → t = s.setPage h { s.page h with references := (s.page h).references - n }) ∧
    (freed →
      t.page h = PageRecord.free ∧ (∀ g, g ≠ h → t.page g = s.page g) ∧
        (∀ e : Nat, isFree t.freeSet e = true ↔ isFree s.freeSet e = true ∨ e ∈ (s.page h).extents) ∧
        t.freeRecords = s.freeRecords + 1 ∧
        t = { s with pages := t.pages, freeSet := t.freeSet, freeRecords := t.freeRecords })

/-! ## Composing pages -/

/-- OPEN_PAGE (R1, R6, R7, R73). Refused: PARAM outside Table 1-1, STATE for a named record that is not
FREE, DIRECTORY_FULL for FFh with no FREE record, and nothing else changes. Answered OK: the record named,
or for FFh the lowest FREE one, takes the frame's parameters in state FILLING, the encoder is READY at
position 0, the Compose port goes INBOUND, and nothing else changes. And the order of the six tolerances in
the parameter field's bytes 7 to 9 (R181): planes 0, 2 and 4 in the high four bits, 1, 3 and 5 in the low. -/
def Obligations.OpenPageOpensOrRefuses : Prop :=
  (∀ b7 b8 b9 : Byte,
    (List.range 6).map (toleranceNibble (b7 ++ b8 ++ b9)) =
      [b7.toNat / 16, b7.toNat % 16, b8.toNat / 16, b8.toNat % 16, b9.toNat / 16, b9.toNat % 16]) ∧
  ∀ (q : OpenParams) (s : State), s.takes .compose .openPage →
    (¬ q.InRange → exec (.openPage .compose q) s = .next (s.answer .compose .openPage .param [])) ∧
    (q.InRange → q.handle ≠ 0xFF → (s.page q.handle).state ≠ .free →
      exec (.openPage .compose q) s = .next (s.answer .compose .openPage .state [])) ∧
    (q.InRange → q.handle = 0xFF → (∀ h, (s.page h).state ≠ .free) →
      exec (.openPage .compose q) s = .next (s.answer .compose .openPage .directoryFull [])) ∧
    ∀ h : Handle, q.InRange → (s.page h).state = .free →
      (q.handle = h ∧ h ≠ 0xFF ∨
        q.handle = 0xFF ∧ ∀ g : Handle, g.toNat < h.toNat → (s.page g).state ≠ .free) →
      let tol := fun j => if j < q.planes.toNat then toleranceNibble q.tolerances j else 0
      exec (.openPage .compose q) s = .next
        { s.setPage h
            { state := .filling, planes := q.planes.toNat, width := q.width.toNat
              height := q.height.toNat, bandHeight := q.bandHeight.toNat
              tolerances := #v[tol 0, tol 1, tol 2, tol 3, tol 4, tol 5], retention := q.retention
              committed := 0, streamLength := 0, extents := [], holdReason := none
              releasePending := false, references := 0, firstDamaged := none } with
          freeRecords := s.freeRecords - 1
          encoder := some
            { phase := .ready, handle := h, expected := some 0, stagedLines := 0, staging := []
              output := [], coding := none, deferred := none }
          compose := s.compose.answered .inbound 0x10 .ok [h] }

/-- OPEN_PAGE with the continue flag (R8, R74): the checks of Table 1-6 in order, then the page is FILLING
at its committed count with its parameters, stream and extents kept, and nothing else changes. -/
def Obligations.ContinuePageResumes : Prop :=
  ∀ (h : Handle) (s : State), s.takes .compose .openPage →
    let r := s.page h
    let all := r.committed = r.shape.bands * r.planes
    exec (.openPageContinue .compose h) s = .next
      (if h = 0xFF then s.answer .compose .openPage .param []
      else if r.state = .free then s.answer .compose .openPage .noPage []
      else if r.state ≠ .torn then s.answer .compose .openPage .state []
      else if r.holdReason ≠ none then s.answer .compose .openPage .held []
      else if r.releasePending = true then s.answer .compose .openPage .state []
      else if r.references ≠ 0 then s.answer .compose .openPage .state []
      else if r.firstDamaged ≠ none then s.answer .compose .openPage .state []
      else
        { s.setPage h { r with state := .filling } with
          encoder := some
            { phase := if all then .complete else .ready, handle := h
              expected := if all then none else some r.committed, stagedLines := 0, staging := []
              output := [], coding := none, deferred := none }
          compose := s.compose.answered .inbound 0x10 .ok [h] })

/-- SEAL_PAGE by encoder state (R9, R86): deferred while a commit is in flight; else OK exactly when every
position is committed, with the page SEALED, the port IDLE and the encoder IDLE, and INCOMPLETE otherwise. -/
def Obligations.SealPageByEncoderState : Prop :=
  ∀ (w : EncoderWork) (s : State), s.takes .compose .sealPage → s.encoder = some w →
    let r := s.page w.handle
    exec (.sealPage .compose) s = .next
      (if w.phase.isCommitting then
        { s with compose := { s.compose with outstanding := some 0x11 }
                 encoder := some { w with deferred := some .sealPage } }
      else if r.committed = r.shape.bands * r.planes then
        { s.setPage w.handle { r with state := .sealed } with
          encoder := none
          compose := s.compose.answered .idle 0x11 .ok [] }
      else s.answer .compose .sealPage .incomplete [])

/-- ABANDON_PAGE by encoder state (R10, R87): in READY and COMPLETE the page is freed, the port and the
encoder go IDLE; while a token is owed the reply is deferred. And what freeing a page does (R3, R19, R41):
its extents, and only they, join the free set, its record takes the FREE values (class KEEP by log entry
13), the count of FREE records rises by one, and nothing else changes. -/
def Obligations.AbandonPageByEncoderState : Prop :=
  (∀ (s : State) (h : Handle), s.FreeSetWf →
    let t := s.freePage h
    t.page h =
        { state := .free, planes := 0, width := 0, height := 0, bandHeight := 0
          tolerances := #v[0, 0, 0, 0, 0, 0], retention := .keep, committed := 0, streamLength := 0
          extents := [], holdReason := none, releasePending := false, references := 0
          firstDamaged := none } ∧
      (∀ g, g ≠ h → t.page g = s.page g) ∧
      (∀ e : Nat, isFree t.freeSet e = true ↔ isFree s.freeSet e = true ∨ e ∈ (s.page h).extents) ∧
      t.freeRecords = s.freeRecords + 1 ∧
      t = { s with pages := t.pages, freeSet := t.freeSet, freeRecords := t.freeRecords }) ∧
  ∀ (w : EncoderWork) (s : State), s.takes .compose .abandonPage → s.encoder = some w →
    exec (.abandonPage .compose) s = .next
      (if w.phase = .ready ∨ w.phase = .complete then
        { s.freePage w.handle with
          encoder := none
          compose := s.compose.answered .idle 0x12 .ok [] }
      else
        { s with compose := { s.compose with outstanding := some 0x12 }
                 encoder := some { w with deferred := some .abandonPage } })

/-- A line block that meets no open composition, or one while a token is owed (R75, R76, R121, R141): STRAY,
and REJECT_ORDER but at a busy Compose port; nothing else changes. -/
def Obligations.StrayLineBlocks : Prop :=
  ∀ (p : Port) (b : LineBlock) (s : State),
    ((s.port p).state ≠ .down → p ≠ .compose ∨ s.compose.state ≠ .inbound →
      exec (.lineBlock p b) s = .next ((s.sent p (.token .rejectOrder)).strayed p)) ∧
    (s.compose.state = .inbound → (s.encoder.any fun w => w.phase.isCommitting || w.phase == .lineCoding) →
      exec (.lineBlock .compose b) s = .next (s.strayed .compose))

/-- A line block at an INBOUND Compose port in READY or COMPLETE (R77, R78, R80): the tests of Table 4-3 in
order; a refused block changes nothing but the token sent; a good one joins the staging buffer, and the
encoder goes LINE_CODING, or COMMITTING at its plane-band's last line. And the geometry of a page (R2): the
band count, the line count of a band, B but for the last band, the positions, the raw size and the tolerance
of a plane. -/
def Obligations.ComposeLineBlockJudged : Prop :=
  (∀ (p : Shape) (band : Nat), 0 < p.bandHeight → 0 < p.height →
    let bands := (p.height + p.bandHeight - 1) / p.bandHeight
    p.bands = bands ∧ p.positions = bands * p.planes ∧
      (band + 1 < bands → p.bandLines band = p.bandHeight) ∧
      (band + 1 = bands → p.bandLines band = p.height - (bands - 1) * p.bandHeight ∧
        1 ≤ p.bandLines band ∧ p.bandLines band ≤ p.bandHeight) ∧
      p.raw band = p.width * p.bandLines band ∧
      ((List.range bands).map p.bandLines).sum = p.height ∧
      ∀ j : Fin 6, p.tol j = p.tolerances[j]) ∧
  ∀ (b : LineBlock) (w : EncoderWork) (s : State), s.compose.state = .inbound →
    s.encoder = some w → w.phase = .ready ∨ w.phase = .complete →
    let p := (s.page w.handle).shape
    let band := w.expected.getD 0 / p.planes
    let good := b.data.length = (if b.depth = 0x01 then (b.count.toNat + 1) / 2 else b.count.toNat) ∧
      b.crc = crc16 (b.kind :: b.depth :: b.plane :: field16 b.line.toNat ++ field16 b.count.toNat ++ b.data)
    let expected := w.phase = .ready ∧ b.kind = 0x00 ∧ b.depth = 0x00 ∧
      b.plane.toNat = w.expected.getD 0 % p.planes ∧
      b.line.toNat = band * p.bandHeight + w.stagedLines ∧ b.count.toNat = p.width
    exec (.lineBlock .compose b) s = .next
      (if ¬ good then s.sent .compose (.token .rejectCheck)
      else if ¬ expected then s.sent .compose (.token .rejectOrder)
      else
        { s with
          encoder := some
            { w with staging := w.staging ++ b.data
                     stagedLines := w.stagedLines + 1
                     output := if w.stagedLines = 0 then [] else w.output
                     coding := if w.stagedLines = 0 then some Coding.initial else w.coding
                     phase := if w.stagedLines + 1 = p.bandLines band then .committing .finishing
                       else .lineCoding } })

/-- LINE_CODING_END (R78, R79, R87): the last staged line has been coded, or only staged after a stop; the
encoder goes READY, ACCEPT is sent, and a deferred ABANDON_PAGE then frees the page. That a line is coded
whole in this event is the model's reading (log entry 7). -/
def Obligations.LineCodingEndAccepts : Prop :=
  ∀ (w : EncoderWork) (s : State), s.compose.state = .inbound → s.encoder = some w →
    w.phase = .lineCoding →
    let p := (s.page w.handle).shape
    let band := w.expected.getD 0 / p.planes
    let coded := encodeLine (p.tol (w.expected.getD 0 % p.planes)) (p.width * p.bandLines band)
      (w.staging.drop ((w.stagedLines - 1) * p.width)) (w.coding.getD Coding.initial) w.output
    (w.deferred = none →
      exec .lineCodingEnd s = .next
        { s.sent .compose (.token .accept) with
          encoder := some { w with phase := .ready, coding := some coded.1, output := coded.2 } }) ∧
    (w.deferred = some .abandonPage →
      exec .lineCodingEnd s = .next
        { s.freePage w.handle with
          encoder := none
          compose := { s.compose with
            state := .idle
            transmit := s.compose.transmit ++ [.token .accept, .reply 0x12 .ok .idle []] } })

/-- EXTENT_TAKE (R40, R61, R62, R64, R80, R81, R82). The plane-band is stored RAW exactly when coding
stopped, its staged samples then being its stored bytes, and else as its coded bytes; length, check and
offset are theirs. Granted: the extents join the tail of the page's list, the commit goes to its writes and
presents the first, unless a given-up write of the encoder is still in progress (log entry 18). Refused:
REJECT_FULL, the plane-band back at its first line with its buffers empty, the page and the free set as they
were; a deferred reply follows (R86, R87). That the first stage ends in the event of the take is the model's
reading (log entry 7). -/
def Obligations.ExtentTakeJudged : Prop :=
  ∀ (w : EncoderWork) (s : State), s.compose.state = .inbound → s.encoder = some w →
    w.phase = .committing .finishing → s.FreeSetWf → s.EncoderKept → s.sched.encoderReq = none →
    let r := s.page w.handle
    let p := r.shape
    let band := w.expected.getD 0 / p.planes
    let lines := p.bandLines band
    let x := encodeRows (p.tol (w.expected.getD 0 % p.planes)) (p.width * lines)
      ((List.range lines).map fun i => (w.staging.drop (i * p.width)).take p.width)
    let stored := if x.1.stopped then w.staging else codedBytes x.2
    let units := (r.streamLength + stored.length - 1) / 256 - r.streamLength / 256 + 1
    let o := fun es : List Nat =>
      { mode := if x.1.stopped then StorageMode.raw else .coded, length := stored.length
        check := crc16 stored, offset := r.streamLength, extentsTaken := es
        writesRemaining := units + 1 : CommitOutcome }
    let coded := { w with coding := some x.1, output := x.2 }
    let needed := (r.streamLength + stored.length + 65535) / 65536 - r.extents.length
    let again : EncoderWork := { w with phase := .ready, stagedLines := 0, staging := [], output := []
                                        coding := none, deferred := none }
    (∀ es f, takeExtents r.retention needed s.freeSet = some (es, f) →
      exec .extentTake s = .next
        { s.setPage w.handle { r with extents := r.extents ++ es } with
          freeSet := f
          encoder := some { coded with phase := .committing (.writing (o es)) }
          sched := match s.sched.grant with
            | some (.encoder _ _) => s.sched
            | _ => Scheduler.grantNext
              { s.sched with
                encoderReq := commitWrite coded (o es) { r with extents := r.extents ++ es } }
              s.thermal }) ∧
    (freeCount s.freeSet < needed → r.committed ≠ r.shape.bands * r.planes →
      exec .extentTake s = .next
        (match w.deferred with
        | none => { s.sent .compose (.token .rejectFull) with encoder := some again }
        | some .sealPage =>
          { s with
            encoder := some again
            compose := { s.compose with
              transmit := s.compose.transmit ++
                [.token .rejectFull, .reply 0x11 .incomplete .inbound []] } }
        | some .abandonPage =>
          { s.freePage w.handle with
            encoder := none
            compose := { s.compose with
              state := .idle
              transmit := s.compose.transmit ++ [.token .rejectFull, .reply 0x12 .ok .idle []] } }))

/-- A commit's writes (R34, R35, R82, R83, R154): each lands in its range alone; after the next to last the
next write is presented; the index entry's write completes the commit: the counts advance, the buffers are
emptied, ACCEPT is sent, and a deferred reply is judged after it. -/
def Obligations.CommitWritesInOrder : Prop :=
  ∀ (x : StoreChange) (q : WriteReq) (u : UnitAddr) (w : EncoderWork) (o : CommitOutcome) (s : State),
    s.sched.grant = some (.encoder q true) → q.addr = some u → u.present = true →
    s.encoder = some w → w.phase = .committing (.writing o) → s.sched.encoderReq = none →
    s.compose.state = .inbound →
    let t := s.transferred ((s.store.change x).write u q.offset q.data)
    let r := s.page w.handle
    let o' := { o with writesRemaining := o.writesRemaining - 1 }
    let r' := { r with committed := r.committed + 1, streamLength := r.streamLength + o.length }
    let all := r'.committed = r.shape.bands * r.planes
    let w' : EncoderWork :=
      { w with phase := if all then .complete else .ready
               expected := if all then none else some r'.committed
               stagedLines := 0, staging := [], output := [], coding := none, deferred := none }
    (2 ≤ o.writesRemaining →
      exec (.transferCompletion x) s = .next (State.settle
        { t with
          encoder := some { w with phase := .committing (.writing o') }
          sched := Scheduler.grantNext { t.sched with encoderReq := commitWrite w o' r } s.thermal })) ∧
    (o.writesRemaining = 1 →
      exec (.transferCompletion x) s = .next (State.settle
        (match w.deferred with
        | none => { (t.setPage w.handle r').sent .compose (.token .accept) with encoder := some w' }
        | some .sealPage =>
          if all then
            { t.setPage w.handle { r' with state := .sealed } with
              encoder := none
              compose := { s.compose with
                state := .idle
                transmit := s.compose.transmit ++ [.token .accept, .reply 0x11 .ok .idle []] } }
          else
            { t.setPage w.handle r' with
              encoder := some w'
              compose := { s.compose with
                transmit := s.compose.transmit ++
                  [.token .accept, .reply 0x11 .incomplete .inbound []] } }
        | some .abandonPage =>
          { (t.setPage w.handle r').freePage w.handle with
            encoder := none
            compose := { s.compose with
              state := .idle
              transmit := s.compose.transmit ++ [.token .accept, .reply 0x12 .ok .idle []] } })))

/-- A take and a return (R40, R41): a take fails exactly when the free set holds fewer extents than asked;
else it gives exactly that many, the lowest left first for a KEEP page and the highest left first for a
VOLATILE one; a return adds its extents; in both every other extent stays as it was. -/
def Obligations.FreeSetGivesAndTakesBack : Prop :=
  ∀ (f : List Span), spansWf f →
    (∀ (r : Retention) (n : Nat),
      (takeExtents r n f = none ↔ freeCount f < n) ∧
      ∀ es f', takeExtents r n f = some (es, f') →
        es.length = n ∧ spansWf f' ∧ freeCount f' + n = freeCount f ∧
        (∀ e, isFree f e = true ↔ isFree f' e = true ∨ e ∈ es) ∧
        (∀ e ∈ es, isFree f' e = false) ∧
        (r = .keep → es.Pairwise (· < ·) ∧ ∀ e ∈ es, ∀ x, isFree f' x = true → e < x) ∧
        (r = .volatile → es.Pairwise (· > ·) ∧ ∀ e ∈ es, ∀ x, isFree f' x = true → x < e)) ∧
    ∀ es : List Nat,
      spansWf (returnExtents es f) ∧
      (∀ e, isFree (returnExtents es f) e = true ↔ isFree f e = true ∨ e ∈ es) ∧
      (es.Nodup → (∀ e ∈ es, isFree f e = false) →
        freeCount (returnExtents es f) = freeCount f + es.length)

/-! ## The band store -/

/-- A write (R29, R33): the bytes of its range, or the one index entry, take the written values and read
back so; every other byte and every other entry of the store keep theirs. The store's own changes between
two transfers (R36; how they reach the model is log entry 3): each listed byte and entry takes the last value
listed for it, and every other keeps its own. -/
def Obligations.WriteChangesOnlyItsRange : Prop :=
  (∀ (m : Memory) (c : StoreChange), m.wf →
    let t := m.change c
    t.wf ∧ ∀ a : Nat,
      tableGet a t.bytes = (match c.bytes.reverse.find? fun x => x.1 == a with
        | some x => some x.2
        | none => tableGet a m.bytes) ∧
      tableGet a t.entries = (match c.entries.reverse.find? fun x => x.1 == a with
        | some x => some x.2
        | none => tableGet a m.entries)) ∧
  ∀ (m : Memory) (u : UnitAddr) (offset : Nat) (draws : Vector Nat 8), m.wf →
    let first := u.extent * 65536 + u.unit * 256 + offset
    (∀ bs : List Byte,
      let t := m.write u offset (.bytes bs)
      t.wf ∧ t.entries = m.entries ∧
        (∀ a : Nat, a < first ∨ first + bs.length ≤ a → tableGet a t.bytes = tableGet a m.bytes) ∧
        t.readBytes draws first bs.length = bs) ∧
    ∀ e : IndexEntry,
      let t := m.write u offset (.entry e)
      t.wf ∧ t.bytes = m.bytes ∧ t.readEntry draws first = e ∧
        ∀ a : Nat, a ≠ first → tableGet a t.entries = tableGet a m.entries

/-- Transfers that no one waits for (R33, R35, R36, R94, R151, R154): a write whose work was given up still
lands its bytes, such a read is handed to no one; then the requester presents its next transfer, and nothing
else changes but the store's own changes and the next grant. That a new commit's first write waits for a
given-up one is the model's reading (log entry 18). The model's own: a unit the store has not stops the
machine (log entry 15), and with no transfer granted nothing completes (log entry 4). -/
def Obligations.TransfersWithNoOneWaiting : Prop :=
  ∀ (x : StoreChange) (s : State),
    let go := exec (.transferCompletion x) s
    (∀ (q : WriteReq) (u : UnitAddr), s.sched.grant = some (.encoder q false) → q.addr = some u →
      u.present = true →
      let t := s.transferred ((s.store.change x).write u q.offset q.data)
      ((∀ w o, s.encoder = some w → w.phase ≠ .committing (.writing o)) → go = .next t.settle) ∧
      (∀ w o, s.encoder = some w → w.phase = .committing (.writing o) → s.sched.encoderReq = none →
        go = .next (State.settle { t with
          sched := Scheduler.grantNext
            { t.sched with encoderReq := commitWrite w o (s.page w.handle) } s.thermal }))) ∧
    (∀ (q : ReadReq) (u : UnitAddr), s.sched.grant = some (.press q false) → q.addr = some u →
      u.present = true → go = .next (s.transferred (s.store.change x)).presentPress.settle) ∧
    (∀ (q : ReadReq) (u : UnitAddr), s.sched.grant = some (.proof q false) → q.addr = some u →
      u.present = true → go = .next (s.transferred (s.store.change x)).presentProof.settle) ∧
    (∀ (q : WriteReq) (live : Bool), s.sched.grant = some (.encoder q live) →
      (∀ u, q.addr = some u → u.present = false) → go = .fault .absentStoreUnit) ∧
    (∀ (q : ReadReq) (live : Bool),
      s.sched.grant = some (.press q live) ∨ s.sched.grant = some (.proof q live) →
      (∀ u, q.addr = some u → u.present = false) → go = .fault .absentStoreUnit) ∧
    (s.sched.grant = none ∨ s.sched.grant = some .refresh → go = .next s)

/-- A read of the press channel completes (R92 to R95, R101, R154): the unit's contents as they stand feed
the plane-band that asked, an unsound index entry is damage at its band, and the next read is presented.
That the decoder takes the bytes on at once is the model's reading (log entry 8). -/
def Obligations.PressReadFeedsPlaneBand : Prop :=
  ∀ (x : StoreChange) (q : ReadReq) (u : UnitAddr) (k : BufferId) (c : PressChannel) (d : Delivery)
    (band plane : Nat) (work : Decoding) (planes : List (List Byte)) (s : State),
    s.sched.grant = some (.press q true) → q.slot = .press k → q.addr = some u → u.present = true →
    s.pressChannel = some c → s.delivery = some d → s.press.state = .outbound →
    c.buffer k = .decoding band plane work planes →
    let p := c.shape.decode band plane
    let t := s.transferred (s.store.change x)
    let base := u.extent * 65536 + u.unit * 256
    let fed := fun work' => { t with
      pressChannel := some (c.setBuffer k (.decoding band plane work' planes)) }.presentPress.settle
    (∀ off, q.target = .entry off →
      let e := t.store.readEntry s.undefinedDraws (base + off)
      (soundEntry e (p.width * p.lines) (s.page c.handle).streamLength →
        exec (.transferCompletion x) s = .next (fed { work with entry := some e })) ∧
      (¬ soundEntry e (p.width * p.lines) (s.page c.handle).streamLength →
        exec (.transferCompletion x) s = .next (t.pressDamaged c d band).presentPress.settle)) ∧
    (∀ off len e, q.target = .bytes off len → work.entry = some e →
      exec (.transferCompletion x) s = .next
        (fed (work.feed p e (t.store.readBytes s.undefinedDraws (base + off) len))))

/-- A read of the proof channel completes, as for the press channel (R92 to R95, R105, R154; log entry 8). -/
def Obligations.ProofReadFeedsPlaneBand : Prop :=
  ∀ (x : StoreChange) (q : ReadReq) (u : UnitAddr) (c : ProofChannel) (v : ViewRecord)
    (work : Decoding) (s : State),
    s.sched.grant = some (.proof q true) → q.addr = some u → u.present = true →
    s.proofChannel = some c → s.view = some v → s.proof.state = .outbound →
    c.buffer = .decoding work →
    let p := c.shape.decode c.band c.plane
    let t := s.transferred (s.store.change x)
    let base := u.extent * 65536 + u.unit * 256
    let fed := fun work' => { t with
      proofChannel := some { c with buffer := .decoding work' } }.presentProof.settle
    (∀ off, q.target = .entry off →
      let e := t.store.readEntry s.undefinedDraws (base + off)
      (soundEntry e (p.width * p.lines) (s.page c.handle).streamLength →
        exec (.transferCompletion x) s = .next (fed { work with entry := some e })) ∧
      (¬ soundEntry e (p.width * p.lines) (s.page c.handle).streamLength →
        exec (.transferCompletion x) s = .next (t.viewDamaged c v).settle)) ∧
    (∀ off len e, q.target = .bytes off len → work.entry = some e →
      exec (.transferCompletion x) s = .next
        (fed (work.feed p e (t.store.readBytes s.undefinedDraws (base + off) len))))

/-! ## The decode channels -/

/-- PLANE_BAND_DECODED (R93, R95, R99 to R101, R104, R105): nothing while the plane-band needs more bytes;
a verified plane-band takes its channel on; damage marks the page and discards or ends. That the decoder's
finding is acted on in this event is the model's reading (log entry 8), and that the event changes nothing
while bytes are still needed is the model's choice (log entry 4). -/
def Obligations.PlaneBandDecodedByVerdict : Prop :=
  (∀ (k : BufferId) (c : PressChannel) (d : Delivery) (band plane : Nat) (work : Decoding)
    (planes : List (List Byte)) (s : State),
    s.pressChannel = some c → s.delivery = some d → s.press.state = .outbound →
    c.buffer k = .decoding band plane work planes →
    exec (.planeBandDecoded (.press k)) s = .next
      (match work.verdict (c.shape.decode band plane) with
      | none => s
      | some (.verified xs) =>
        State.presentPress (State.sendPress (State.promote { s with
          pressChannel := some (c.setBuffer k
            (if plane + 1 < c.shape.planes then
              .decoding band (plane + 1) Decoding.initial (planes ++ [xs])
            else .ready band (planes ++ [xs]))) }))
      | some .damage => (s.pressDamaged c d band).presentPress)) ∧
  (∀ (c : ProofChannel) (v : ViewRecord) (work : Decoding) (s : State),
    s.proofChannel = some c → s.view = some v → s.proof.state = .outbound →
    c.buffer = .decoding work →
    exec (.planeBandDecoded .proof) s = .next
      (match work.verdict (c.shape.decode c.band c.plane) with
      | none => s
      | some (.verified xs) =>
        State.sendView { s with proofChannel := some { c with buffer := .sending xs } }
      | some .damage => s.viewDamaged c v))

/-- The reads of the decode channels (R94, R99, R103, R151): one read waiting or in progress at a time, a
discarded one in progress included; the press buffer with the lower band is served first, the other only
when that one has no read to make; a new request lets a free store make its grant (R152). That a waiting read
of the higher band is not withdrawn for the lower one's is the model's reading (log entry 18). -/
def Obligations.ReadsPresentedInOrder : Prop :=
  (∀ (s : State) (c : PressChannel), s.pressChannel = some c →
    let need := fun k => match c.buffer k with
      | .decoding band plane work _ =>
        work.nextRead (.press k) c.handle (band * c.shape.planes + plane) (s.page c.handle).extents
      | _ => none
    let asked := fun q =>
      { s with sched := Scheduler.grantNext { s.sched with pressReq := some q } s.thermal }
    let busy := s.sched.pressReq ≠ none ∨ (s.sched.grant.any fun g => g matches .press _ _) = true
    (busy → s.presentPress = s) ∧
    (¬ busy → ∀ k j, k ≠ j →
      (∀ x, (c.buffer k).band = some x → ∀ y, (c.buffer j).band = some y → x < y) →
      (∀ q, need k = some q → s.presentPress = asked q) ∧
      (need k = none → ∀ q, need j = some q → s.presentPress = asked q) ∧
      (need k = none → need j = none → s.presentPress = s))) ∧
  ∀ (s : State) (c : ProofChannel), s.proofChannel = some c →
    let need := match c.buffer with
      | .decoding work =>
        work.nextRead .proof c.handle (c.band * c.shape.planes + c.plane) (s.page c.handle).extents
      | _ => none
    let busy := s.sched.proofReq ≠ none ∨ (s.sched.grant.any fun g => g matches .proof _ _) = true
    (busy ∨ need = none → s.presentProof = s) ∧
    (¬ busy → ∀ q, need = some q → s.presentProof =
      { s with sched := Scheduler.grantNext { s.sched with proofReq := some q } s.thermal })

/-- A decoder (R55, R57 to R60, R63 to R68, R93). A plane-band is verified exactly when every stored byte is
in, no finding was made, the last sample is rebuilt, no stored byte is left over and the check matches; it is
damage exactly when a word was malformed, a stored byte is left over, or every byte is in and the check
differs. A unit's bytes join the check, and for RAW the samples; for CODED they are decoded word by word as
far as they reach, and a word that still needs a bit when all are in is malformed. A regular value above 510
and a run longer than the columns left are malformed; every other word rebuilds its sample or its run. -/
def Obligations.VerifiedNeedsEveryByteAndCheck : Prop :=
  (∀ (p : DecodeShape) (d : Decoding) (e : IndexEntry), d.entry = some e →
    let allIn := (e.offset + e.length - 1) / 256 - e.offset / 256 + 1 ≤ d.unitsRead
    let read := (d.coding.bitCount + 7) / 8
    (∀ xs : List Byte, d.verdict p = some (.verified xs) ↔
      xs = d.samples ∧ d.coding.check = e.check ∧ allIn ∧
        (e.mode = .coded → d.malformed = false ∧ p.lines ≤ d.coding.row ∧ e.length ≤ read)) ∧
    (d.verdict p = some .damage ↔
      (e.mode = .coded ∧ (d.malformed = true ∨ p.lines ≤ d.coding.row ∧ read < e.length)) ∨
        (allIn ∧ d.coding.check ≠ e.check ∧ (e.mode = .coded → p.lines ≤ d.coding.row)))) ∧
  (∀ (p : DecodeShape) (e : IndexEntry) (bytes : List Byte) (d : Decoding),
    let d1 : Decoding :=
      { d with unitsRead := d.unitsRead + 1
               coding := { d.coding with check := bytes.foldl crc16Byte d.coding.check } }
    let bits := d.unread ++ bytes.flatMap byteBits
    let d2 := decodeOn p bits.length { d1 with unread := bits }
    let allIn := (e.offset + e.length - 1) / 256 - e.offset / 256 + 1 ≤ d.unitsRead + 1
    (e.mode = .raw → d.feed p e bytes = { d1 with samples := d.samples ++ bytes }) ∧
    (e.mode = .coded → d.feed p e bytes =
      if allIn ∧ d2.coding.row < p.lines then { d2 with malformed := true } else d2) ∧
    decodeOn p 1 d2 = d2) ∧
  (∀ (p : DecodeShape) (n : Nat) (d : Decoding),
    decodeOn p (n + 1) d = decodeOn p n (decodeOn p 1 d) ∧
      (d.malformed = true ∨ p.lines ≤ d.coding.row → decodeOn p n d = d)) ∧
  ∀ (p : DecodeShape) (d : Decoding), d.malformed = false → d.coding.row < p.lines →
    let c := d.coding
    let g := neighbours c
    let k := activityClass (activity g)
    let left := p.width - c.current.length
    let regular := c.breakValue ≠ none ∨ activity g ≠ 0
    let read := if regular then readWord 9 (riceRegular c.regular[k]) d.unread
      else readWord 15 (riceRun c.run) d.unread
    let rowClosed := fun t : Decoding =>
      if t.coding.current.length < p.width then t
      else
        { t with
          samples := t.samples ++ t.coding.current
          coding := { t.coding with row := c.row + 1, above := t.coding.current, current := [] } }
    (read = none → decodeOn p 1 d = d) ∧
    ∀ value used rest, read = some (value, used, rest) →
      decodeOn p 1 d =
        if regular then
          if 510 < value then { d with malformed := true }
          else
            let q : Int := if value % 2 = 0 then value / 2 else -((value + 1) / 2)
            rowClosed { d with
              unread := rest
              coding := { c with
                bitCount := c.bitCount + used
                regular := c.regular.set k (c.regular[k].update value)
                current := c.current ++ [reconstruct p.tol (prediction g) q]
                breakValue := none } }
        else if left < value then { d with malformed := true }
        else
          rowClosed { d with
            unread := rest
            coding := { c with
              bitCount := c.bitCount + used
              run := c.run.update value
              current := c.current ++ List.replicate value g.a
              breakValue := if value < left then some g.a else none } }

/-! ## Blocks on the Press and Proof links -/

/-- The send of R119 and R120: nothing while a block is outstanding, a late token is owed or no buffer sends
the band of a PAGE block; else the next block goes out, a margin block with zeros and a PAGE block with the
samples of its line and plane, and becomes outstanding. Nothing else changes. -/
def Obligations.PressBlockSentWhenAvailable : Prop :=
  ∀ (s : State) (d : Delivery) (c : PressChannel) (b : BlockRef), s.press.state = .outbound →
    s.delivery = some d → s.pressChannel = some c → c.shape = d.shape → d.next = some b →
    let band := b.line / d.shape.bandHeight
    let out := fun kind data =>
      { s.sent .press (.block kind .full b.plane b.line d.shape.width data) with
        delivery := some { d with outstanding := some b, next := d.after b } }
    (d.outstanding ≠ none ∨ s.pressLate = true → s.sendPress = s) ∧
    (d.outstanding = none → s.pressLate = false →
      (b.phase ≠ .page → s.sendPress = out .margin (List.replicate d.shape.width 0)) ∧
      (b.phase = .page → (∀ k planes, c.buffer k ≠ .sending band planes) → s.sendPress = s) ∧
      (b.phase = .page → ∀ k planes, c.buffer k = .sending band planes →
        (∀ j, j ≠ k → (c.buffer j).band ≠ some band) →
        s.sendPress = out .page
          (((planes.getD b.plane []).drop ((b.line - band * d.shape.bandHeight) * d.shape.width)).take
            d.shape.width)))

/-- The send of a view (R140, R141): the selected columns of the line, at FULL depth a byte each and at
DRAFT4 the top four bits of each, two to a byte, the first high. -/
def Obligations.ViewBlockSentWhenAvailable : Prop :=
  (∀ (s : State) (v : ViewRecord) (c : ProofChannel) (r : ViewRef), s.proof.state = .outbound →
    s.view = some v → s.proofChannel = some c → v.next = some r →
    (v.outstanding ≠ none ∨ s.proofLate = true ∨ (∀ xs, c.buffer ≠ .sending xs) ∨
        (c.band, c.plane) ≠ (r.band, r.plane) → s.sendView = s) ∧
    ∀ xs, c.buffer = .sending xs → (c.band, c.plane) = (r.band, r.plane) → v.outstanding = none →
      s.proofLate = false →
      let w := v.shape.width
      let line := (xs.drop ((r.line - r.band * v.shape.bandHeight) * w)).take w
      s.sendView =
        { s.sent .proof (.block .page v.depth r.plane r.line ((w + v.decimation - 1) / v.decimation)
            (depthData v.depth (decimate v.decimation line))) with
          view := some { v with outstanding := some r, next := v.after r } }) ∧
  (∀ (n : Nat) (line : List Byte), 0 < n →
    decimate n line = (line.zipIdx.filter fun x => x.2 % n == 0).map (·.1)) ∧
  ∀ xs : List Byte,
    depthData .full xs = xs ∧ (depthData .draft4 xs).length = (xs.length + 1) / 2 ∧
      (∀ (i : Nat) (x : Byte), xs[i]? = some x → ∃ b : Byte, (depthData .draft4 xs)[i / 2]? = some b ∧
        x.toNat / 16 = if i % 2 = 0 then b.toNat / 16 else b.toNat % 16) ∧
      (xs.length % 2 = 1 → ∃ b : Byte, (depthData .draft4 xs).getLast? = some b ∧ b.toNat % 16 = 0)

/-- The line order of a delivery (R118) and the view order (R139), first block to last. -/
def Obligations.BlocksFollowInOrder : Prop :=
  (∀ (h : Handle) (p : Shape) (startBand lead trail window : Nat), 0 < p.planes →
    startBand * p.bandHeight < p.height →
    let d := Delivery.begin h p startBand lead trail window
    let leadLines := if startBand = 0 then lead else 0
    let pageLines := p.height - startBand * p.bandHeight
    let lines := (List.range leadLines).map (Phase.lead, ·) ++
      (List.range pageLines).map (fun i => (Phase.page, startBand * p.bandHeight + i)) ++
      (List.range trail).map (Phase.trail, ·)
    let count := p.planes * (leadLines + pageLines + trail)
    followed d.after (count + 1) d.next =
        lines.flatMap (fun x => (List.range p.planes).map fun plane => ⟨x.1, x.2, plane⟩) ∧
      (followed d.after (count + 1) d.next).length = count) ∧
  ∀ v : ViewRecord, v.planeMask.Pairwise (· < ·) → v.planeMask ≠ [] →
    v.decimation = 1 ∨ v.decimation = 2 ∨ v.decimation = 4 →
    v.shape.bandHeight = 8 ∨ v.shape.bandHeight = 16 → v.firstBand < v.endBand →
    v.endBand ≤ v.shape.bands → 0 < v.shape.height →
    let first := fun band => band * v.shape.bandHeight
    let order : List ViewRef :=
      (List.range (v.endBand - v.firstBand)).flatMap fun i => v.planeMask.flatMap fun plane =>
        let band := v.firstBand + i
        ((List.range (v.shape.bandLines band)).filter fun y => (first band + y) % v.decimation == 0).map
          fun y => ⟨band, plane, first band + y⟩
    followed v.after (order.length + 1)
      (some ⟨v.firstBand, v.planeMask.headD 0, first v.firstBand⟩) = order

/-! ## The print queue and press deliveries -/

/-- ENQUEUE (R111): the checks of Table 6-2 in order; else the copies join the tail, the page's references
rise by their number, and the reply gives the queue length after the append. -/
def Obligations.EnqueueAppendsCopies : Prop :=
  ∀ (h : Handle) (copies : Byte) (s : State), s.takes .compose .enqueue →
    let r := s.page h
    let n := copies.toNat
    exec (.enqueue .compose h copies) s = .next
      (if n < 1 ∨ 8 < n then s.answer .compose .enqueue .param []
      else if r.state = .free then s.answer .compose .enqueue .noPage []
      else if r.state ≠ .sealed then s.answer .compose .enqueue .state []
      else if r.releasePending = true then s.answer .compose .enqueue .state []
      else if r.holdReason ≠ none then s.answer .compose .enqueue .held []
      else if 64 < s.queue.length + n then s.answer .compose .enqueue .queueFull []
      else
        { s.setPage h { r with references := r.references + n } with
          queue := s.queue ++ List.replicate n h
          compose := s.compose.answered s.compose.state 0x18 .ok
            [BitVec.ofNat 8 (s.queue.length + n)] })

/-- REBIND (R112): the new page's checks in order; else every entry naming the old page, but a marked head,
names the new one in its place, and the references move with them, the last one freeing a release-pending
old page. -/
def Obligations.RebindMovesEntries : Prop :=
  ∀ (old new : Handle) (s : State), s.takes .compose .rebind →
    let r := s.page new
    let spared := if s.delivering then 1 else 0
    let n := if old = new then 0 else (s.queue.drop spared).count old
    let moved := { s.setPage new { r with references := r.references + n } with
      queue := s.queue.take spared ++
        (s.queue.drop spared).map fun h => if h = old then new else h }
    exec (.rebind .compose old new) s = .next
      (if r.state = .free then s.answer .compose .rebind .noPage []
      else if r.state ≠ .sealed then s.answer .compose .rebind .state []
      else if r.releasePending = true then s.answer .compose .rebind .state []
      else if r.holdReason ≠ none then s.answer .compose .rebind .held []
      else
        { moved.dropRefs old n with
          compose := s.compose.answered s.compose.state 0x19 .ok [BitVec.ofNat 8 n] })

/-- SKIP (R113): QUEUE_EMPTY, or the head leaves with its reference, whatever its page's state and hold, and
a release-pending page is freed with its last reference (LastReferenceFreesPendingPage); ILLEGAL in OUTBOUND.
PEEK_QUEUE (R114): the queue as it stands, and nothing else changes. -/
def Obligations.SkipAndPeekQueue : Prop :=
  (∀ s : State, s.press.state = .outbound → s.press.outstanding = none →
    exec (.skip .press) s = .next (s.answer .press .skip .illegal [])) ∧
  (∀ s : State, s.takes .press .skip →
    (s.queue = [] → exec (.skip .press) s = .next (s.answer .press .skip .queueEmpty [])) ∧
    ∀ h rest, s.queue = h :: rest →
      exec (.skip .press) s = .next
        { { s with queue := rest }.dropRefs h 1 with
          press := s.press.answered s.press.state 0x21 .ok [h, BitVec.ofNat 8 rest.length] }) ∧
  ∀ (p : Port) (s : State), s.takes p .peekQueue →
    exec (.peekQueue p) s = .next (s.answer p .peekQueue .ok
      (BitVec.ofNat 8 s.queue.length :: (if s.delivering then 0x01 else 0x00) :: s.queue))

/-- START (R98, R116, R117): the checks of Table 6-4 in order; else the head takes the mark, the record, the
channel with its one or two bands and the reply are made, and then the first block goes out if it can and
the first read is presented. -/
def Obligations.StartBeginsDelivery : Prop :=
  ∀ (startBand lead trail window : Word16) (s : State), s.takes .press .start →
    let b := startBand.toNat
    let go := exec (.start .press startBand lead trail window) s
    (s.queue = [] → go = .next (s.answer .press .start .queueEmpty [])) ∧
    ∀ h rest, s.queue = h :: rest →
      let r := s.page h
      let p := r.shape
      let inLead := b = 0 ∧ 0 < lead.toNat
      let begun := { s with
        delivering := true
        press := s.press.answered .outbound 0x20 .ok
          ([h, BitVec.ofNat 8 r.planes] ++ field16 r.width ++ field16 r.height ++ field16 p.bands)
        delivery := some
          { handle := h, shape := p, startBand := b, lead := lead.toNat, trail := trail.toNat
            window := window.toNat, phase := if inLead then .lead else .page
            next := some (if inLead then ⟨.lead, 0, 0⟩ else ⟨.page, b * p.bandHeight, 0⟩)
            outstanding := none, firstNotComplete := b
            timer := if 0 < window.toNat then .running else .off }
        pressChannel := some
          { handle := h, shape := p, startBand := b, nextBand := min (b + 2) p.bands, stopBand := none
            bufferA := .decoding b 0 Decoding.initial []
            bufferB := if b + 1 < p.bands then .decoding (b + 1) 0 Decoding.initial [] else .empty } }
      go = .next
        (if r.holdReason ≠ none then s.answer .press .start .held []
        else if r.state ≠ .sealed then s.answer .press .start .state []
        else if p.bands ≤ b ∨ 4095 < lead.toNat ∨ 4095 < trail.toNat then s.answer .press .start .param []
        else begun.sendPress.presentPress)

/-- STOP at the Press and at the Proof port, and the expiry of the band window (R123, R125, R127, R128,
R142, R144): the end notice, the ending, and for STOP the reply after it. That an expiry with the timer off
or stopped changes nothing is the model's choice (log entry 4). -/
def Obligations.StopAndExpiryEndDelivery : Prop :=
  (∀ (d : Delivery) (s : State), s.takes .press .stop → s.delivery = some d →
    let t := s.pressEnded d .stopped d.firstNotComplete
    exec (.stop .press) s = .next { t with press := t.press.answered .idle 0x22 .ok [] }) ∧
  (∀ (v : ViewRecord) (s : State), s.takes .proof .stop → s.view = some v →
    let t := s.viewEnded v .stopped v.firstNotSent
    exec (.stop .proof) s = .next { t with proof := t.proof.answered .idle 0x22 .ok [] }) ∧
  ∀ (d : Delivery) (s : State), s.press.state = .outbound → s.delivery = some d →
    exec .bandWindowExpiry s = .next
      (if d.timer = .running then s.pressEnded d .underrun d.firstNotComplete else s)

/-- The press buffers at their turn (R98, R100): a READY buffer goes SENDING once its band is the first not
completed and the lead margin is past; at a band completion the SENDING buffer goes EMPTY, the other takes
its turn, and the emptied one is assigned the next band if that is below the band count and the stop band.
With the other one EMPTY, both stay EMPTY if no band remains, and else are assigned what remains, A first. -/
def Obligations.BandCompletionTurnsBuffers : Prop :=
  (∀ (s : State) (d : Delivery) (c : PressChannel), s.delivery = some d → s.pressChannel = some c →
    let turn := fun x : BandBuffer => match x with
      | .ready band planes =>
        if d.phase ≠ .lead ∧ band = d.firstNotComplete then .sending band planes else x
      | _ => x
    s.promote = { s with
      pressChannel := some { c with bufferA := turn c.bufferA, bufferB := turn c.bufferB } }) ∧
  ∀ (c : PressChannel) (d : Delivery) (k j : BufferId) (band : Nat) (planes : List (List Byte)),
    k ≠ j → c.buffer k = .sending band planes → (∀ n ps, c.buffer j ≠ .sending n ps) → d.phase ≠ .lead →
    let remains := fun b => b < c.shape.bands ∧ ∀ n, c.stopBand = some n → b < n
    let fresh := fun b => BandBuffer.decoding b 0 Decoding.initial []
    let next := c.nextBand
    let t := c.completeBand d
    (c.buffer j ≠ .empty →
      (∀ ps, c.buffer j = .ready d.firstNotComplete ps → t.buffer j = .sending d.firstNotComplete ps) ∧
      ((∀ ps, c.buffer j ≠ .ready d.firstNotComplete ps) → t.buffer j = c.buffer j) ∧
      (remains next → t.buffer k = fresh next ∧ t.nextBand = next + 1) ∧
      (¬ remains next → t.buffer k = .empty ∧ t.nextBand = next)) ∧
    (c.buffer j = .empty →
      (¬ remains next → t.bufferA = .empty ∧ t.bufferB = .empty ∧ t.nextBand = next) ∧
      (remains next → t.bufferA = fresh next) ∧
      (remains next → ¬ remains (next + 1) → t.bufferB = .empty ∧ t.nextBand = next + 1) ∧
      (remains (next + 1) → t.bufferB = fresh (next + 1) ∧ t.nextBand = next + 2)) ∧
    t = { c with nextBand := t.nextBand, bufferA := t.bufferA, bufferB := t.bufferB }

/-- A token at the Press port (R121, R122, R125, R126, R129 to R131): the late token, a token that answers
nothing, an unknown code, a rejection, and an ACCEPT that ends the delivery, completes a band or neither. -/
def Obligations.PressTokenAnswersBlock : Prop :=
  ∀ (code : Byte) (s : State), s.press.state ≠ .down →
    let go := exec (.blockToken .press code) s
    (s.pressLate = true → go = .next { s with pressLate := false }.sendPress) ∧
    (s.pressLate = false → (∀ d, s.delivery = some d → d.outstanding = none) →
      go = .next (s.strayed .press)) ∧
    ∀ (d : Delivery) (b : BlockRef) (c : PressChannel), s.pressLate = false → s.delivery = some d →
      d.outstanding = some b → s.pressChannel = some c →
      let p := d.shape
      let d0 := { d with outstanding := none }
      let rejected := match b.phase with
        | .page => b.line / p.bandHeight
        | .lead => d.startBand
        | .trail => p.bands
      (code = 0x00 ∨ 0x04 < code → go = .next (s.strayed .press)) ∧
      (code = 0x02 ∨ code = 0x03 ∨ code = 0x04 → go = .next (s.pressEnded d0 .rejected rejected)) ∧
      (code = 0x01 →
        let d1 := if b.phase = .lead ∧ (∃ n, d.next = some n ∧ n.phase = .page) then
            { d0 with phase := .page } else d0
        let endsBand := b.phase = .page ∧ b.plane + 1 = p.planes ∧
          (b.line + 1 = p.height ∨ (b.line + 1) % p.bandHeight = 0)
        (d.next = none → ∀ h rest, s.queue = h :: rest →
          go = .next ({ s.pressEnded d0 .done p.bands with queue := rest }.dropRefs h 1)) ∧
        (d.next ≠ none → ¬ endsBand →
          go = .next
            (State.promote { s with delivery := some d1 }).sendPress) ∧
        (d.next ≠ none → endsBand →
          let last := p.bands ≤ d.firstNotComplete + 1
          let d2 : Delivery :=
            { d1 with
              firstNotComplete := d.firstNotComplete + 1
              timer := if d.timer = .off then .off else if last then .stopped else .running
              phase := if last then .trail else d1.phase }
          let c2 := c.completeBand d2
          let below := fun n => c2.bufferA.band.any (· < n) || c2.bufferB.band.any (· < n)
          (∀ n, c2.stopBand = some n → below n = false → go = .next (s.pressEnded d2 .damaged n)) ∧
          ((∀ n, c2.stopBand = some n → below n = true) →
            go = .next
              { s with delivery := some d2, pressChannel := some c2 }.sendPress.presentPress)))

/-! ## Proof views -/

/-- A token at the Proof port (R104, R138, R141 to R143, R145, R147), and one at the Compose port, which
answers nothing there (R186). -/
def Obligations.ProofTokenAnswersBlock : Prop :=
  ∀ (code : Byte) (s : State),
    (s.compose.state ≠ .down → exec (.blockToken .compose code) s = .next (s.strayed .compose)) ∧
    (s.proof.state ≠ .down →
      let go := exec (.blockToken .proof code) s
      (s.proofLate = true → go = .next { s with proofLate := false }.sendView) ∧
      (s.proofLate = false → (∀ v, s.view = some v → v.outstanding = none) →
        go = .next (s.strayed .proof)) ∧
      ∀ (v : ViewRecord) (r : ViewRef) (c : ProofChannel), s.proofLate = false → s.view = some v →
        v.outstanding = some r → s.proofChannel = some c →
        let v0 := { v with outstanding := none }
        let endsPlaneBand :=
          r.band * v.shape.bandHeight + v.shape.bandLines r.band ≤ r.line + v.decimation
        let higher := v.planeMask.find? fun plane => r.plane < plane
        let v1 := if endsPlaneBand ∧ higher = none then
            { v0 with firstNotSent := v.firstNotSent + 1 } else v0
        (code = 0x00 ∨ 0x04 < code → go = .next (s.strayed .proof)) ∧
        (code = 0x02 ∨ code = 0x03 ∨ code = 0x04 →
          go = .next (s.viewEnded v0 .rejected (r.line / v.shape.bandHeight))) ∧
        (code = 0x01 → v.next = none → go = .next (s.viewEnded v1 .done v.endBand)) ∧
        (code = 0x01 → v.next ≠ none → ¬ endsPlaneBand →
          go = .next { s with view := some v1 }.sendView.presentProof) ∧
        (code = 0x01 → v.next ≠ none → endsPlaneBand → (c.band, c.plane) = (r.band, r.plane) →
          (∀ plane, higher = some plane →
            go = .next { s with
              view := some v1
              proofChannel := some
                { c with plane := plane, buffer := .decoding Decoding.initial } }.presentProof) ∧
          (higher = none → r.band + 1 < v.endBand →
            go = .next { s with
              view := some v1
              proofChannel := some
                { c with band := r.band + 1, plane := v.planeMask.headD 0
                         buffer := .decoding Decoding.initial } }.presentProof)))

/-- VIEW (R103, R135 to R138): the checks of Table 7-1 in order; else one reference, the view record, the
proof channel at its first plane-band, the reply, and then the first read is presented. -/
def Obligations.ViewBeginsOrRefuses : Prop :=
  ∀ (q : ViewParams) (s : State), s.takes .proof .view →
    let r := s.page q.handle
    let p := r.shape
    let refused := fun result => s.answer .proof .view result []
    let usable := match r.state with
      | .sealed => p.bands
      | .damaged => r.firstDamaged.getD 0
      | _ => match r.firstDamaged with
        | none => r.committed / r.planes
        | some n => min (r.committed / r.planes) n
    let first := q.firstBand.toNat
    let stop := min (first + q.bandCount.toNat) usable
    let mask := (List.range 8).filter fun j => q.planeMask.getLsbD j
    let n := q.decimation.toNat
    let depth := if q.depth = 0x00 then Depth.full else .draft4
    let begun := { s.setPage q.handle { r with references := r.references + 1 } with
      view := some
        { handle := q.handle, shape := p, planeMask := mask, firstBand := first, endBand := stop
          decimation := n, depth := depth, next := some ⟨first, mask.headD 0, first * r.bandHeight⟩
          outstanding := none, firstNotSent := first }
      proofChannel := some
        { handle := q.handle, shape := p, planeMask := mask, firstBand := first
          bandCount := stop - first, decimation := n, band := first, plane := mask.headD 0
          buffer := .decoding Decoding.initial }
      proof := s.proof.answered .outbound 0x28 .ok
        ([q.handle, BitVec.ofNat 8 r.planes] ++ field16 r.width ++ field16 r.height ++
          [BitVec.ofNat 8 r.bandHeight] ++ field16 first ++ field16 (stop - first) ++
          [q.decimation, q.depth] ++ field16 ((r.width + n - 1) / n)) }
    exec (.view .proof q) s = .next
      (if q.planeMask = 0 then refused .param
      else if q.decimation ≠ 1 ∧ q.decimation ≠ 2 ∧ q.decimation ≠ 4 then refused .param
      else if q.depth ≠ 0x00 ∧ q.depth ≠ 0x01 then refused .param
      else if 2047 < first then refused .param
      else if q.bandCount.toNat < 1 ∨ 2048 < q.bandCount.toNat then refused .param
      else if r.state = .free then refused .noPage
      else if r.state ≠ .sealed ∧ r.state ≠ .damaged ∧ r.state ≠ .torn then refused .state
      else if r.releasePending = true then refused .state
      else if ∃ j ∈ mask, r.planes ≤ j then refused .param
      else if usable ≤ first then refused .state
      else begun.presentProof)

/-! ## The store scheduler, the thermal monitor, rest -/

/-- The next grant is the first eligible candidate of Table 8-2 (R152, R156, R159, R161); the completion of
a refresh and an expiry of the refresh timer (R153, R155, R157, R158) make it and judge the drain. -/
def Obligations.GrantsFollowTheOrder : Prop :=
  let chosen := fun (c : Scheduler) (t : Thermal) =>
    match grantOrder.find? (c.eligible t) with
    | some x => c.granted x
    | none => c
  (∀ (c : Scheduler) (t : Thermal), c.grant = none → c.selfRetention = false →
    c.grantNext t = chosen c t) ∧
  (∀ s : State, s.sched.selfRetention = false → s.sched.grant = some .refresh →
    exec .refreshCompletion s = .next (State.checkDrain
      { s with sched := chosen { s.sched with grant := none } s.thermal })) ∧
  ∀ s : State, s.sched.selfRetention = false → s.sched.timerRunning = true →
    let interval := match s.thermal with
      | .cool => 1560
      | .normal => 780
      | .warm => 390
      | .hot => 195
    let c := if s.sched.debt < 8 then
        { s.sched with debt := s.sched.debt + 1, interval := interval }
      else { s.sched with refreshMissed := true, interval := interval }
    exec .refreshTimerExpiry s = .next (State.checkDrain
      { s with sched := if c.grant = none then chosen c s.thermal else c })

/-- A commit's writes and a channel's reads (R33 to R35, R82, R92): one store unit each, ascending, the unit
under each stream unit of the plane-band; every write lies inside the plane-band, from its stream offset on,
so that it leaves a neighbour's bytes of a shared unit alone; together the writes carry the stored bytes, and
the reads ask for the same ranges of the same units. The index entry is written last and read first. -/
def Obligations.WritesAndReadsCoverTheStream : Prop :=
  ∀ (w : EncoderWork) (o : CommitOutcome) (r : PageRecord) (slot : DecodeSlot) (d : Decoding),
    let bytes := w.storedBytes o.mode
    let e : IndexEntry := ⟨o.offset, o.length, o.mode, o.check⟩
    let position := w.expected.getD 0
    let n := (o.offset + o.length - 1) / 256 - o.offset / 256 + 1
    let writeAt := fun k => commitWrite w { o with writesRemaining := n + 1 - k } r
    let readAt := fun k => Decoding.nextRead { d with entry := some e, unitsRead := k } slot w.handle
      position r.extents
    let entryAt : Nat := w.handle.toNat * 98304 + position * 8
    let entryUnit : UnitAddr := ⟨entryAt / 65536, entryAt % 65536 / 256⟩
    bytes.length = o.length → 0 < o.length →
    (∀ k < n, ∃ q, writeAt k = some q ∧
      let unit := o.offset / 256 + k
      ∃ data, q.data = .bytes data ∧ 0 < data.length ∧ q.offset + data.length ≤ 256 ∧
        o.offset ≤ unit * 256 + q.offset ∧
        unit * 256 + q.offset + data.length ≤ o.offset + o.length ∧
        q.addr = (r.extents[unit / 256]?).map (fun e => ⟨e, unit % 256⟩) ∧
        readAt k = some ⟨slot, q.addr, .bytes q.offset data.length⟩ ∧
        data = (bytes.drop (unit * 256 + q.offset - o.offset)).take data.length) ∧
    (List.range n).flatMap (fun k => match writeAt k with
      | some ⟨_, _, .bytes data⟩ => data
      | _ => []) = bytes ∧
    writeAt n = some ⟨some entryUnit, entryAt % 256, .entry e⟩ ∧ readAt n = none ∧
    Decoding.nextRead { d with entry := none } slot w.handle position r.extents =
      some ⟨slot, some entryUnit, .entry (entryAt % 256)⟩

/-- A reading (R164 to R167): rounded with halves up and clamped, it becomes the last reading; the class
rises at once and falls 3 °C below its lower bound; the first reading sets it directly. Leaving HOT lets a
free store make its next grant (R159). -/
def Obligations.ThermalReadingSetsClass : Prop :=
  ∀ (v : SensorValue) (n : Int) (s : State), 0 < v.denominator →
    2 * n * v.denominator ≤ 2 * v.numerator + v.denominator →
    2 * v.numerator + v.denominator < 2 * (n + 1) * v.denominator →
    let reading := max (-40) (min 150 n)
    let falls := if reading < 45 then Thermal.cool else if reading < 85 then .normal
      else if reading < 105 then .warm else .hot
    let t := { s with
      lastReading := some reading
      thermal :=
        if s.lastReading = none then falls
        else match s.thermal with
          | .cool => falls
          | .normal => if reading ≤ 42 ∨ 85 ≤ reading then falls else .normal
          | .warm => if reading ≤ 82 ∨ 105 ≤ reading then falls else .warm
          | .hot => if reading ≤ 102 then falls else .hot }
    exec (.thermalReading v) s = .next (if s.thermal = .hot ∧ t.thermal ≠ .hot then t.settle else t)

/-- REST, WAKE and a link-up (R171, R189, R190, R193): the port's change, then the rest condition or the
wake, by store mode. -/
def Obligations.RestAndWakeByMode : Prop :=
  ∀ (p : Port) (s : State),
    let woken := fun t : State =>
      match s.mode with
      | .active => t
      | .enteringRest =>
        { t with mode := .active
                 sched := Scheduler.grantNext { s.sched with drain := false } s.thermal }
      | .retained =>
        { t with mode := .active
                 retained := none
                 sched := Scheduler.grantNext
                  { s.sched with selfRetention := false, debt := 1, timerRunning := true
                                 interval := s.thermal.interval } s.thermal }
    (s.takes p .rest →
      let t := s.setPort p ((s.port p).answered .resting 0x30 .ok [])
      exec (.rest p) s = .next
        (if s.mode = .active ∧ ∀ x ∈ [Port.compose, .press, .proof],
            (t.port x).state = .resting ∨ (t.port x).state = .down then
          State.checkDrain
            { t with mode := .enteringRest, sched := { s.sched with drain := true } }
        else t)) ∧
    (s.takes p .wake →
      exec (.wake p) s = .next (woken (s.setPort p ((s.port p).answered .idle 0x31 .ok [])))) ∧
    ((s.port p).state = .down →
      exec (.linkUp p) s = .next (woken (s.setPort p { s.port p with state := .idle })))

/-- Rest entry (R13, R38, R161, R162, R191): it waits for the drain; then the segments of the protected
pages and segment 0 are retained and hold what they held, every other page with an extent elsewhere turns
LOST, the contents of the other segments are undefined, and the scheduler goes into self-retention. That
undefined contents are free values drawn by a count for each segment, undefinedDraws, is the model's own
(log entry 1). -/
def Obligations.RestEntryKeepsProtectedPages : Prop :=
  ∀ s : State,
    (¬ (s.sched.drain = true ∧ s.sched.debt ≤ 0 ∧ s.sched.grant = none) → s.checkDrain = s) ∧
    (s.sched.drain = true → s.sched.debt ≤ 0 → s.sched.grant = none → s.FreeSetWf →
      ∃ kept : List Nat,
        let t := s.checkDrain
        let lost := fun r : PageRecord =>
          (r.state = .sealed ∨ r.state = .torn ∨ r.state = .damaged) ∧ r.retention = .volatile ∧
            r.holdReason = none ∧ r.references = 0 ∧ ∃ e ∈ r.extents, e / 4096 ∉ kept
        (∀ g, g ∈ kept ↔ g < 8 ∧ (g = 0 ∨ ∃ h : Handle, ∃ e ∈ (s.page h).extents,
          e / 4096 = g ∧ ((s.page h).retention = .keep ∨ (s.page h).holdReason ≠ none ∨
            (s.page h).references ≠ 0))) ∧
        (∀ h, (lost (s.page h) →
            t.page h = { s.page h with state := .lost, extents := [], streamLength := 0 }) ∧
          (¬ lost (s.page h) → t.page h = s.page h)) ∧
        (∀ e : Nat, isFree t.freeSet e = true ↔ isFree s.freeSet e = true ∨
          ∃ h, lost (s.page h) ∧ e ∈ (s.page h).extents) ∧
        (∀ a : Nat, a / 268435456 ∈ kept →
          tableGet a t.store.bytes = tableGet a s.store.bytes ∧
            tableGet a t.store.entries = tableGet a s.store.entries ∧
            t.store.readByte t.undefinedDraws a = s.store.readByte s.undefinedDraws a ∧
            t.store.readEntry t.undefinedDraws a = s.store.readEntry s.undefinedDraws a) ∧
        (∀ a : Nat, a / 268435456 ∉ kept →
          tableGet a t.store.bytes = none ∧ tableGet a t.store.entries = none) ∧
        (∀ g : Fin 8, t.undefinedDraws[g] =
          if g.val ∈ kept then s.undefinedDraws[g] else s.undefinedDraws[g] + 1) ∧
        t = { s with
          pages := t.pages
          freeSet := t.freeSet
          store := t.store
          undefinedDraws := t.undefinedDraws
          mode := .retained
          retained := some kept
          sched := { s.sched with selfRetention := true, drain := false, timerRunning := false } })

/-! ## Link loss and device reset -/

/-- A lost link (R11, R84, R89, R133, R149, R172, R190): its port goes DOWN with nothing to send and no
command outstanding, its flags kept; a FILLING page goes TORN with the commit in flight cancelled, a
delivery or a view is dropped without a notice; then the rest condition is judged. And what giving up work
does at the scheduler (R94, R151): the waiting request of that work is withdrawn, its granted transfer goes
on and is handed to no one, and every other request, grant and item stays. -/
def Obligations.LinkLossDropsTheWork : Prop :=
  (∀ c : Scheduler,
    let without := fun gone : DecodeSlot → Bool =>
      { c with
        grant := match c.grant with
          | some (.press q live) => some (.press q (if gone q.slot then false else live))
          | some (.proof q live) => some (.proof q (if gone q.slot then false else live))
          | g => g
        pressReq := match c.pressReq with
          | some q => if gone q.slot then none else some q
          | none => none
        proofReq := match c.proofReq with
          | some q => if gone q.slot then none else some q
          | none => none }
    (∀ k : DecodeSlot, c.withdrawRead k = without fun x => x == k) ∧
      c.withoutPress = without (fun x => x == .press .a || x == .press .b) ∧
      c.withdrawWrite =
        { c with
          grant := match c.grant with
            | some (.encoder q _) => some (.encoder q false)
            | g => g
          encoderReq := none }) ∧
  ∀ s : State,
    let ports : List Port := [.compose, .press, .proof]
    let lost := fun r : PortRec =>
      { r with state := .down, outstanding := none, transmit := [], receiver := [] }
    let judged := fun t : State =>
      if t.mode = .active ∧ (∀ x ∈ ports, (t.port x).state = .resting ∨ (t.port x).state = .down) ∧
          (∃ x ∈ ports, (t.port x).state = .resting) then
        State.checkDrain { t with mode := .enteringRest, sched := { t.sched with drain := true } }
      else t
    (s.compose.state ≠ .down →
      (s.encoder = none →
        exec (.linkLoss .compose) s = .next (judged { s with compose := lost s.compose })) ∧
      ∀ w, s.encoder = some w →
        let r := s.page w.handle
        let taken := match w.phase with
          | .committing (.writing o) => o.extentsTaken
          | _ => []
        exec (.linkLoss .compose) s = .next (judged
          { s.setPage w.handle
              { r with state := .torn, extents := r.extents.take (r.extents.length - taken.length) } with
            freeSet := returnExtents taken s.freeSet
            encoder := none
            sched := s.sched.withdrawWrite
            compose := lost s.compose })) ∧
    (s.press.state ≠ .down →
      exec (.linkLoss .press) s = .next (judged { s with
        press := lost s.press
        pressLate := false
        pressChannel := none
        delivery := none
        delivering := false
        sched := s.sched.withoutPress })) ∧
    (s.proof.state ≠ .down →
      (s.view = none → s.proofChannel = none →
        exec (.linkLoss .proof) s = .next (judged { s with
          proof := lost s.proof
          proofLate := false
          sched := s.sched.withdrawRead .proof })) ∧
      ∀ v, s.view = some v →
        exec (.linkLoss .proof) s = .next (judged { s.dropRefs v.handle 1 with
          proof := lost s.proof
          proofLate := false
          proofChannel := none
          view := none
          sched := s.sched.withdrawRead .proof }))

/-- Device reset (R25, R37, R90, R107, R110, R134, R149, R163, R168, R173, R194): every port DOWN and bare,
the work of every block given up, a FILLING page TORN, the queue and all references gone, release-pending
pages freed, the store ACTIVE; debt, timer, fault, reading, class and contents are kept, or the scheduler
leaves self-retention as for a wake. -/
def Obligations.DeviceResetGivesUpAllWork : Prop :=
  ∀ s : State, s.FreeSetWf →
    (∀ w, s.encoder = some w → (s.page w.handle).releasePending = false) →
    let filling := fun h => ∃ w, s.encoder = some w ∧ w.handle = h
    let taken := match s.encoder with
      | some w => match w.phase with
        | .committing (.writing o) => o.extentsTaken
        | _ => []
      | none => []
    let bare : Scheduler := { s.sched with
      grant := s.sched.grant.map fun g => match g with
        | .press q _ => .press q false
        | .encoder q _ => .encoder q false
        | .proof q _ => .proof q false
        | .refresh => .refresh
      pressReq := none
      encoderReq := none
      proofReq := none }
    ∃ t, exec .deviceReset s = .next t ∧
      (∀ p, t.port p = ⟨.down, none, [], false, false, []⟩) ∧
      (∀ h, (filling h →
          t.page h = { s.page h with state := .torn, references := 0
                                     extents := (s.page h).extents.take
                                      ((s.page h).extents.length - taken.length) }) ∧
        (¬ filling h →
          t.page h = if (s.page h).releasePending then PageRecord.free
            else { s.page h with references := 0 })) ∧
      (∀ e : Nat, isFree t.freeSet e = true ↔ isFree s.freeSet e = true ∨ e ∈ taken ∨
        ∃ h, (s.page h).releasePending = true ∧ e ∈ (s.page h).extents) ∧
      t.freeRecords = s.freeRecords + allHandles.countP (fun h => (s.page h).releasePending) ∧
      t.sched = (match s.mode with
        | .active => bare
        | .enteringRest => Scheduler.grantNext { bare with drain := false } s.thermal
        | .retained => Scheduler.grantNext
          { bare with selfRetention := false, debt := 1, timerRunning := true
                      interval := s.thermal.interval } s.thermal) ∧
      t = { s with
        compose := t.compose, press := t.press, proof := t.proof, pressLate := false
        proofLate := false, pages := t.pages, freeSet := t.freeSet, freeRecords := t.freeRecords
        queue := [], delivering := false, encoder := none, pressChannel := none
        proofChannel := none, delivery := none, view := none, sched := t.sched, mode := .active
        retained := if s.mode = .retained then none else s.retained }

/-! ## The band code -/

/-- The coding of samples (R47 to R52, R55, R57 to R60, R62): the neighbours of Table 3-2; prediction and
activity; the classes of Table 3-4; residual, reconstruction and mapped value; the run length; and what
Table 3-8 has the coder do at each sample: a regular word, its escape 9 bits, after a run's break or where
the activity is not 0, else a run word, its escape 15 bits; no word where the stream would pass 8 × raw
bits; at the row's end the next row. -/
def Obligations.SamplesCodedWithinTolerance : Prop :=
  (∀ c : Coding,
    let i := c.current.length
    (c.row = 0 → i = 0 → neighbours c = ⟨128, 128, 128⟩) ∧
    (∀ x, c.row = 0 → c.current.getLast? = some x → neighbours c = ⟨x, x, x⟩) ∧
    (∀ x, 0 < c.row → i = 0 → c.above[0]? = some x → neighbours c = ⟨x, x, x⟩) ∧
    (∀ x y z, 0 < c.row → c.current.getLast? = some x → c.above[i]? = some y →
      c.above[i - 1]? = some z → neighbours c = ⟨x, y, z⟩)) ∧
  (∀ g : Nat, (g = 0 → activityClass g = 0) ∧ (1 ≤ g → g ≤ 7 → activityClass g = 1) ∧
    (8 ≤ g → g ≤ 31 → activityClass g = 2) ∧ (32 ≤ g → activityClass g = 3)) ∧
  (∀ (tol : Nat) (v : Byte) (xs : List Byte), runLength tol v xs =
    (xs.takeWhile fun x => decide (|(x.toNat : Int) - v.toNat| ≤ tol)).length) ∧
  (∀ (tol raw n : Nat) (x : Byte) (xs : List Byte) (c : Coding) (out : List Bool),
    let g := neighbours c
    let k := activityClass (activity g)
    let q := quantise tol ((x.toNat : Int) - prediction g)
    let m := mapResidual q
    let len := runLength tol g.a (x :: xs)
    let regular := c.breakValue ≠ none ∨ activity g ≠ 0
    let word := if regular then codeWord 9 (riceRegular c.regular[k]) m else codeWord 15 (riceRun c.run) len
    let wrote := { c with bitCount := c.bitCount + word.length
                          check := checkOver c.check out.length (out ++ word) }
    encodeRest tol raw (n + 1) (x :: xs) c out =
      if 8 * raw < c.bitCount + word.length then ({ c with stopped := true }, out)
      else if regular then
        encodeRest tol raw n xs
          { wrote with regular := c.regular.set k (c.regular[k].update m)
                       current := c.current ++ [reconstruct tol (prediction g) q]
                       breakValue := none } (out ++ word)
      else
        encodeRest tol raw n ((x :: xs).drop len)
          { wrote with run := c.run.update len
                       current := c.current ++ List.replicate len g.a
                       breakValue := if len < xs.length + 1 then some g.a else none } (out ++ word)) ∧
  (∀ (tol raw n : Nat) (line : List Byte) (c : Coding) (out : List Bool),
    encodeRest tol raw (n + 1) [] c out =
        ({ c with row := c.row + 1, above := c.current, current := [] }, out) ∧
      (2 * line.length + 1 ≤ n → encodeLine tol raw line c out =
        if c.stopped then (c, out) else encodeRest tol raw n line c out)) ∧
  (∀ n : Neighbours,
    let a : Int := n.a.toNat
    let b : Int := n.b.toNat
    let c : Int := n.c.toNat
    prediction n = max (min a b) (min (max a b) (a + b - c)) ∧ 0 ≤ prediction n ∧
      prediction n ≤ 255 ∧ (activity n : Int) = |a - c| + |b - c| ∧ activity n ≤ 510) ∧
  ∀ (tol : Nat) (x : Byte) (p : Int), tol ≤ 7 → 0 ≤ p → p ≤ 255 →
    let e : Int := x.toNat - p
    let q := quantise tol e
    let r : Int := (reconstruct tol p q).toNat
    q = (if e < 0 then -1 else 1) * ((|e| + tol) / (2 * tol + 1)) ∧ |q * (2 * tol + 1) - e| ≤ tol ∧
      r = max 0 (min 255 (p + q * (2 * tol + 1))) ∧ |r - x.toNat| ≤ tol ∧
      (mapResidual q : Int) = (if 0 ≤ q then 2 * q else -2 * q - 1) ∧ mapResidual q ≤ 510 ∧
      unmapResidual (mapResidual q) = q

/-- Contexts, Rice parameters and code words (R45, R53 to R55): a plane-band begins with A = 4, N = 1 in all
five contexts and nothing coded or decoded; N stays in 1..31, k is the least that fits, a word is u one-bits,
a zero-bit and the low k bits, or the escape, and a decoder reads back every word, the escapes an encoder
never writes included. -/
def Obligations.CodeWordsReadBack : Prop :=
  (Coding.initial =
      { row := 0, above := [], current := [], regular := #v[⟨4, 1⟩, ⟨4, 1⟩, ⟨4, 1⟩, ⟨4, 1⟩]
        run := ⟨4, 1⟩, breakValue := none, bitCount := 0, stopped := false, check := 0xFFFF } ∧
    Decoding.initial =
      { entry := none, unitsRead := 0, unread := [], coding := Coding.initial, samples := []
        malformed := false }) ∧
  (∀ (c : Context) (v : Nat), 1 ≤ c.cnt → c.cnt ≤ 31 →
    let t := c.update v
    (1 ≤ t.cnt ∧ t.cnt ≤ 31) ∧
      (c.cnt < 31 → t = ⟨c.acc + v, c.cnt + 1⟩) ∧ (c.cnt = 31 → t = ⟨(c.acc + v) / 2, 16⟩)) ∧
  (∀ c : Context,
    (riceRegular c ≤ 7 ∧ (∀ j < riceRegular c, c.cnt * 2 ^ j < c.acc) ∧
      (riceRegular c < 7 → c.acc ≤ c.cnt * 2 ^ riceRegular c)) ∧
    (riceRun c ≤ 12 ∧ (∀ j < riceRun c, c.cnt * 2 ^ j < c.acc) ∧
      (riceRun c < 12 → c.acc ≤ c.cnt * 2 ^ riceRun c))) ∧
  ∀ (esc k v : Nat) (rest : List Bool), v < 2 ^ esc →
    let word := codeWord esc k v
    let low := fun n => (List.range n).map fun i => v.testBit (n - 1 - i)
    word = (if v / 2 ^ k < 16 then List.replicate (v / 2 ^ k) true ++ [false] ++ low k
      else List.replicate 16 true ++ low esc) ∧
      word.length = (if v / 2 ^ k < 16 then v / 2 ^ k + 1 + k else 16 + esc) ∧
      readWord esc k (word ++ rest) = some (v, word.length, rest) ∧
      (∀ n < word.length, readWord esc k (word.take n) = none) ∧
      readWord esc k (List.replicate 16 true ++ natBits esc v ++ rest) = some (v, 16 + esc, rest)

/-- When coding stops (R56, R61, R62, R64): the stream never passes 8 × raw bits, the bit count and the
running check follow it, and coding stops exactly when the whole stream, coded without the limit, would
pass it; else the two are the same. The stored bytes are the stream, most significant bits first, and zero
bits to the end of the last byte. -/
def Obligations.CodingStopsPastRawSize : Prop :=
  (∀ bits : List Bool,
    let n := (bits.length + 7) / 8
    (codedBytes bits).length = n ∧
      (codedBytes bits).flatMap byteBits = bits ++ List.replicate (8 * n - bits.length) false) ∧
  (∀ b : Byte, byteBits b = (List.range 8).map b.getMsbD) ∧
  ∀ (tol raw width : Nat) (rows : List (List Byte)), tol ≤ 7 → 1 ≤ width → width ≤ 16384 →
    (∀ row ∈ rows, row.length = width) →
    let x := encodeRows tol raw rows
    let whole := encodeRows tol (8 * width * rows.length) rows
    x.1.bitCount = x.2.length ∧ x.2.length ≤ 8 * raw ∧
      x.1.check = crc16 (packBytes (x.2.length / 8) x.2) ∧ whole.1.stopped = false ∧
      (x.1.stopped = true ↔ 8 * raw < whole.2.length) ∧ (x.1.stopped = false → x = whole)

/-- A decoder rebuilds what the encoder coded (R61, R63, R66, R93): fed its stored bytes unit by unit,
however they are cut into as many units as they span, a CODED plane-band comes back verified with every
sample within the tolerance of the composed one, a RAW one with the samples themselves; before the last unit
there is no outcome. -/
def Obligations.DecodeRebuildsWithinTolerance : Prop :=
  ∀ (tol width offset : Nat) (rows units : List (List Byte)), tol ≤ 7 → 1 ≤ width → width ≤ 16384 →
    rows ≠ [] → (∀ row ∈ rows, row.length = width) →
    let raw := width * rows.length
    let p : DecodeShape := ⟨width, rows.length, tol⟩
    let x := encodeRows tol raw rows
    let samples := rows.flatten
    let stored := units.flatten
    units.length = (offset + stored.length - 1) / 256 - offset / 256 + 1 →
    (x.1.stopped = false → stored = codedBytes x.2 →
      let e : IndexEntry := ⟨offset, stored.length, .coded, crc16 stored⟩
      (∀ n < units.length, decodeStored p e (units.take n) = none) ∧
      ∃ ys, decodeStored p e units = some (.verified ys) ∧ ys.length = samples.length ∧
        ∀ (i : Nat) (y : Byte), ys[i]? = some y →
          ∃ z : Byte, samples[i]? = some z ∧ |(y.toNat : Int) - z.toNat| ≤ tol) ∧
    (stored = samples →
      let e : IndexEntry := ⟨offset, raw, .raw, crc16 stored⟩
      (∀ n < units.length, decodeStored p e (units.take n) = none) ∧
        decodeStored p e units = some (.verified samples))

/-- The CRC-16 and the CRC-8 (R64, R65, R180): their values over the nine ASCII digits, and that the CRC-16
tells apart any two byte strings of one length that differ within 16 consecutive bits. -/
def Obligations.ChecksTellBurstsApart : Prop :=
  crc16 [0x31, 0x32, 0x33, 0x34, 0x35, 0x36, 0x37, 0x38, 0x39] = 0x29B1 ∧
  crc8 [0x31, 0x32, 0x33, 0x34, 0x35, 0x36, 0x37, 0x38, 0x39] = 0xF4 ∧
  ∀ (xs ys : List Byte) (k : Nat), xs.length = ys.length → xs ≠ ys →
    (xs.flatMap byteBits).take k = (ys.flatMap byteBits).take k →
    (xs.flatMap byteBits).drop (k + 16) = (ys.flatMap byteBits).drop (k + 16) →
    crc16 xs ≠ crc16 ys

/-- R65's sentence that the check detects every change of two bits within a plane-band of the largest size.
It fails for the CRC that R64 defines: two bits 32767 apart change it alike (log entry 21). -/
def Obligations.ChecksTellTwoBitsApart : Prop :=
  ∀ (xs : List Byte) (i j : Nat) (a b : Fin 8), xs.length ≤ 262144 → i < xs.length → j < xs.length →
    (i, a) ≠ (j, b) →
    let flip := fun (n : Nat) (c : Fin 8) (ys : List Byte) => ys.modify n (· ^^^ (1#8 <<< c.val))
    crc16 (flip i a (flip j b xs)) ≠ crc16 xs

/-! ## Frames -/

/-- The frame a master sends for a command, fed byte by byte to a port that is not DOWN and between frames,
puts exactly that command at the tail of the waiting ones and changes nothing else (R174 to R176, R178,
R179, R181, R183, R186). Every 14 bytes after the mark C3h are judged: a wrong CRC-8 or close byte is a frame
check failure (R176, R185), a code not in Table 9-5 an unknown command, and a frame that agrees with a
command's in its code and in the bits the command reads is that command, whatever its other parameter bits;
the parameters lie in the field's bytes as in Table 9-9 (R181). How the receiver is cut out of the state is the model's (log entry 10). -/
def Obligations.MasterFramesAreReceived : Prop :=
  (∀ c : Cmd, c.code = match c with
    | .status => 0x01 | .queryPage => 0x02 | .listPages => 0x03 | .openPage => 0x10 | .sealPage => 0x11
    | .abandonPage => 0x12 | .enqueue => 0x18 | .rebind => 0x19 | .release => 0x1A | .peekQueue => 0x1B
    | .start => 0x20 | .skip => 0x21 | .stop => 0x22 | .view => 0x28 | .hold => 0x29 | .lift => 0x2A
    | .rest => 0x30 | .wake => 0x31) ∧
  (∀ (i : Instr) (p : Port) (bytes : List Byte) (s : State), i.wellFormed = true →
    i.sentTo = some p → Decode.masterFrame i = some bytes → (s.port p).state ≠ .down →
    (s.port p).receiver = [] →
    s.receiveBytes p bytes = { s with pending := s.pending ++ [i] }) ∧
  ∀ (f : List Byte) (p : Port) (s : State), f.length = 14 → f.head? = some 0xC3 →
    (s.port p).state ≠ .down → (s.port p).receiver = [] →
    let got := fun i => { s with pending := s.pending ++ [i] }
    let code := f.getD 1 0
    let good := f.getD 12 0 = crc8 ((f.drop 1).take 11) ∧ f.getD 13 0 = 0x3C
    (¬ good → s.receiveBytes p f = got (.frameCheckFailure p)) ∧
    (good → (∀ c : Cmd, c.code ≠ code) → s.receiveBytes p f = got (.unknownCommand p code)) ∧
    (good → ∀ (i : Instr) (c : Cmd) (bytes : List Byte), i.commandFrame = some (p, c) → c.code = code →
      Decode.masterFrame i = some bytes →
      (∀ j < 10, f.getD (2 + j) 0 &&& i.readBits.getD j 0 =
        bytes.getD (2 + j) 0 &&& i.readBits.getD j 0) →
      s.receiveBytes p f = got i) ∧
    (good → ∀ c : Cmd, c.code = code →
      let b := fun i => f.getD (2 + i) 0
      let w := fun i => b i ++ b (i + 1)
      s.receiveBytes p f = got (match c with
        | .status => .status p
        | .queryPage => .queryPage p (b 0) (w 1)
        | .listPages => .listPages p (b 0) (w 1)
        | .openPage =>
          if 128 ≤ (b 1).toNat then .openPageContinue p (b 0)
          else .openPage p
            { handle := b 0, retention := if 64 ≤ (b 1).toNat then .volatile else .keep
              planes := BitVec.ofNat 3 ((b 1).toNat % 8), bandHeight := b 2, width := w 3, height := w 5
              tolerances := b 7 ++ b 8 ++ b 9 }
        | .sealPage => .sealPage p
        | .abandonPage => .abandonPage p
        | .enqueue => .enqueue p (b 0) (b 1)
        | .rebind => .rebind p (b 0) (b 1)
        | .release => .release p (b 0) (b 1)
        | .peekQueue => .peekQueue p
        | .start => .start p (w 0) (w 2) (w 4) (w 6)
        | .skip => .skip p
        | .stop => .stop p
        | .view => .view p
          { handle := b 0, planeMask := b 1, firstBand := w 2, bandCount := w 4, decimation := b 6
            depth := b 7 }
        | .hold => .hold p (b 0) (b 1)
        | .lift => .lift p (b 0)
        | .rest => .rest p
        | .wake => .wake p))

/-! ## What every step keeps -/

/-- Every step keeps the ranges of R1, R109, R156 and R164, the late tokens of R131 and R147, the canonical
forms of the store and of the free set, the ports' rules of R172 to R174 and R183, and the encoder's buffers
(R46, R61, R64, R71, R78, R80, R82); R1's ranges with the directory's invariants, which make the encoder's
page a FILLING one, and the buffers with those and the agreement of the blocks. -/
def Obligations.StepKeepsRangesAndForms : Prop :=
  ∀ s t : State, step s = .next t →
    (s.DebtInRange → t.DebtInRange) ∧ (s.QueueBounded → t.QueueBounded) ∧
      (s.ReadingInRange → t.ReadingInRange) ∧
      (s.LateExcludesOutstanding → t.LateExcludesOutstanding) ∧ (s.StoreWf → t.StoreWf) ∧
      (s.FreeSetWf → t.FreeSetWf) ∧ (s.DownPortsQuiet → t.DownPortsQuiet) ∧
      (s.OneReplyEach → t.OneReplyEach) ∧ (s.DirectoryKept → s.ShapesInRange → t.ShapesInRange) ∧
      (s.BlocksAgree → s.DirectoryKept → s.ShapesInRange → s.EncoderKept → t.EncoderKept)

/-- Every step keeps the agreement of the ports, the encoder, the two deliveries and rest control (R71,
R97, R103, R109, R115, R138, R161, R162, R184, R190, R191). -/
def Obligations.StepKeepsBlocksAgree : Prop :=
  ∀ s t : State, step s = .next t → s.BlocksAgree → t.BlocksAgree

/-- Every step keeps the directory's invariants (R3, R5, R9, R13, R17 to R19, R109), with them every data
extent in exactly one place (R4, R39), and with those the extent lists at ceil(stream length / 65536) entries
but for a commit in flight (R4) and every request and transfer at a unit of the store. In a state of that
kind the machine never stops (log entry 15). -/
def Obligations.StepKeepsDirectory : Prop :=
  (∀ s t : State, step s = .next t → s.BlocksAgree → s.DirectoryKept →
    t.DirectoryKept ∧
      (s.FreeSetWf → s.ExtentsPlaced →
        t.ExtentsPlaced ∧ (s.ShapesInRange → s.EncoderKept → s.UnitsKept → t.UnitsKept))) ∧
  ∀ s : State, s.UnitsKept → ∃ t, step s = .next t

/-- Rules over all commands: in HOT no encoder or proof transfer is granted (R159); REFRESH_MISSED is set
only by an expiry that finds the debt at 8 and cleared only by power-on reset (R157); a page keeps its
parameters and its release pending until it is freed (R1, R20). -/
def Obligations.WholeMachineRules : Prop :=
  ∀ (i : Instr) (s t : State), exec i s = .next t →
    (t.thermal = .hot →
      (∀ q live, t.sched.grant = some (.encoder q live) →
        ∃ was, s.sched.grant = some (.encoder q was)) ∧
      ∀ q live, t.sched.grant = some (.proof q live) →
        ∃ was, s.sched.grant = some (.proof q was)) ∧
    (t.sched.refreshMissed = true ↔
      (s.sched.refreshMissed = true ∧ i ≠ .powerOnReset) ∨
        (i = .refreshTimerExpiry ∧ s.sched.timerRunning = true ∧ 8 ≤ s.sched.debt)) ∧
    ∀ h, (s.page h).state ≠ .free → (t.page h).state ≠ .free →
      (t.page h).shape = (s.page h).shape ∧ (t.page h).retention = (s.page h).retention ∧
        ((s.page h).releasePending = true → (t.page h).releasePending = true)
end

