-- ==== Sys2Proof/Laws/BandStore.lean ====
section
/-! SUPPORT. Laws of the band store: reads after writes, and the canonical form that every operation on the
store's contents and on the free set keeps. -/

namespace Sys2Proof.Machine

/-! ## Tables -/

section Tables

variable {α : Type}

@[simp] theorem tableGet_nil (a : Nat) : tableGet a ([] : List (Nat × α)) = none := rfl

theorem tableGet_cons (a k : Nat) (v : α) (t : List (Nat × α)) :
    tableGet a ((k, v) :: t) = if k = a then some v else tableGet a t := rfl

/-- A read after a write gives the value written there and the old value elsewhere. -/
theorem tableGet_tableSet (a b : Nat) (v : α) (t : List (Nat × α)) :
    tableGet b (tableSet a v t) = if b = a then some v else tableGet b t := by
  induction t with
  | nil => simp [tableSet, tableGet, eq_comm]
  | cons x t ih =>
    obtain ⟨k, w⟩ := x
    unfold tableSet
    split
    · by_cases h : b = a
      · simp [tableGet_cons, h]
      · simp [tableGet_cons, h, Ne.symm h]
    · split
      · next heq =>
        by_cases h : b = a
        · simp [tableGet_cons, h]
        · simp [tableGet_cons, h, Ne.symm h, heq ▸ Ne.symm h]
      · next h =>
        simp only [tableGet_cons, ih]
        by_cases hk : k = b
        · subst hk; simp [Ne.symm h]
        · simp [hk]

@[simp] theorem tableGet_tableSet_same (a : Nat) (v : α) (t : List (Nat × α)) :
    tableGet a (tableSet a v t) = some v := by simp [tableGet_tableSet]

theorem tableGet_tableSet_ne {a b : Nat} (h : b ≠ a) (v : α) (t : List (Nat × α)) :
    tableGet b (tableSet a v t) = tableGet b t := by simp [tableGet_tableSet, h]

/-- The addresses of a table after a write: the one written and those listed before. -/
theorem mem_tableSet {a : Nat} {v : α} {t : List (Nat × α)} {x : Nat × α} (h : x ∈ tableSet a v t) :
    x = (a, v) ∨ x ∈ t := by
  induction t with
  | nil => simpa [tableSet] using h
  | cons y t ih =>
    unfold tableSet at h
    split at h
    · simpa using h
    · split at h
      · rcases List.mem_cons.mp h with h | h
        · exact .inl h
        · exact .inr (List.mem_cons_of_mem _ h)
      · rcases List.mem_cons.mp h with h | h
        · exact .inr (h ▸ List.mem_cons_self ..)
        · exact (ih h).imp_right (List.mem_cons_of_mem _)

/-- A write keeps the addresses strictly rising. -/
theorem tableRising_tableSet {a : Nat} {v : α} {t : List (Nat × α)} (h : tableRising t) :
    tableRising (tableSet a v t) := by
  induction t with
  | nil => simp [tableSet]
  | cons y t ih =>
    obtain ⟨hy, ht⟩ := List.pairwise_cons.mp h
    unfold tableSet
    split
    · next hlt =>
      refine List.pairwise_cons.mpr ⟨fun x hx => ?_, h⟩
      rcases List.mem_cons.mp hx with rfl | hx
      · exact hlt
      · exact Nat.lt_trans hlt (hy x hx)
    · split
      · next heq => exact List.pairwise_cons.mpr ⟨fun x hx => by simpa [heq] using hy x hx, ht⟩
      · next hlt hne =>
        refine List.pairwise_cons.mpr ⟨fun x hx => ?_, ih ht⟩
        rcases mem_tableSet hx with rfl | hx
        · show y.1 < a
          omega
        · exact hy x hx

end Tables

/-! ## The store's contents keep their canonical form -/

theorem Memory.wf_reset : State.reset.store.wf := by decide

theorem Memory.wf_writeByte {m : Memory} (h : m.wf) (a : Nat) (b : Byte) : (m.writeByte a b).wf :=
  ⟨tableRising_tableSet h.1, h.2⟩

theorem Memory.wf_writeEntry {m : Memory} (h : m.wf) (a : Nat) (e : IndexEntry) :
    (m.writeEntry a e).wf :=
  ⟨h.1, tableRising_tableSet h.2⟩

theorem Memory.wf_writeBytes {m : Memory} (h : m.wf) (a : Nat) (bs : List Byte) :
    (m.writeBytes a bs).wf := by
  induction bs generalizing m a with
  | nil => exact h
  | cons b bs ih => exact ih (m.wf_writeByte h a b) (a + 1)

theorem Memory.wf_write {m : Memory} (h : m.wf) (u : UnitAddr) (offset : Nat) (d : WriteData) :
    (m.write u offset d).wf := by
  cases d with
  | bytes bs => exact m.wf_writeBytes h _ bs
  | entry e => exact m.wf_writeEntry h _ e

theorem Memory.wf_change {m : Memory} (h : m.wf) (c : StoreChange) : (m.change c).wf := by
  have bytes : ∀ (l : List (Nat × Byte)) (m : Memory), m.wf →
      (l.foldl (fun m x => m.writeByte x.1 x.2) m).wf := by
    intro l
    induction l with
    | nil => exact fun _ h => h
    | cons x l ih => exact fun m h => ih _ (m.wf_writeByte h x.1 x.2)
  have entries : ∀ (l : List (Nat × IndexEntry)) (m : Memory), m.wf →
      (l.foldl (fun m x => m.writeEntry x.1 x.2) m).wf := by
    intro l
    induction l with
    | nil => exact fun _ h => h
    | cons x l ih => exact fun m h => ih _ (m.wf_writeEntry h x.1 x.2)
  exact entries _ _ (bytes _ _ h)

theorem Memory.wf_keepSegments {m : Memory} (h : m.wf) (retained : List Nat) :
    (m.keepSegments retained).wf :=
  ⟨h.1.filter _, h.2.filter _⟩

/-! ## Reads after writes -/

theorem Memory.readByte_writeByte (m : Memory) (draws : Vector Nat 8) (a b : Nat) (v : Byte) :
    (m.writeByte a v).readByte draws b = if b = a then v else m.readByte draws b := by
  unfold Memory.readByte Memory.writeByte
  rw [tableGet_tableSet]
  split <;> rfl

theorem Memory.readEntry_writeEntry (m : Memory) (draws : Vector Nat 8) (a b : Nat) (e : IndexEntry) :
    (m.writeEntry a e).readEntry draws b = if b = a then e else m.readEntry draws b := by
  unfold Memory.readEntry Memory.writeEntry
  rw [tableGet_tableSet]
  split <;> rfl

@[simp] theorem Memory.writeByte_entries (m : Memory) (a : Nat) (v : Byte) :
    (m.writeByte a v).entries = m.entries := rfl
@[simp] theorem Memory.writeEntry_bytes (m : Memory) (a : Nat) (e : IndexEntry) :
    (m.writeEntry a e).bytes = m.bytes := rfl

/-- The bytes listed after a run of writes: those of the run in its range, the old ones elsewhere. -/
theorem Memory.bytes_writeBytes (m : Memory) (a : Nat) (bs : List Byte) (b : Nat) :
    tableGet b (m.writeBytes a bs).bytes =
      if a ≤ b ∧ b < a + bs.length then bs[b - a]? else tableGet b m.bytes := by
  induction bs generalizing m a with
  | nil => simp [Memory.writeBytes]
  | cons x bs ih =>
    rw [Memory.writeBytes, ih, Memory.writeByte, tableGet_tableSet, List.length_cons]
    rcases Nat.lt_trichotomy b a with h | h | h
    · rw [if_neg (by omega), if_neg (by omega), if_neg (by omega)]
    · subst h
      simp
    · obtain ⟨k, rfl⟩ : ∃ k, b = a + 1 + k := ⟨b - (a + 1), by omega⟩
      have hk : a + 1 + k - a = k + 1 := by omega
      rw [hk, Nat.add_sub_cancel_left, List.getElem?_cons_succ]
      by_cases hl : k < bs.length
      · rw [if_pos (by omega), if_pos (by omega)]
      · rw [if_neg (by omega), if_neg (by omega), if_neg (by omega)]

/-! ## What a rest entry keeps (R38) -/

@[simp] theorem redraw_get (kept : List Nat) (draws : Vector Nat 8) (g : Nat) (hg : g < 8) :
    (redraw kept draws)[g] = if g ∈ kept then draws[g] else draws[g] + 1 := by
  simp [redraw]

theorem drawsAt_redraw {kept : List Nat} {a : Nat} (h : segmentOfByte a ∈ kept) (draws : Vector Nat 8) :
    drawsAt (redraw kept draws) a = drawsAt draws a := by
  unfold drawsAt
  generalize segmentOfByte a = g at h
  by_cases hg : g < 8
  · simp [List.getD_eq_getElem?_getD, hg, h]
  · simp [List.getD_eq_getElem?_getD, hg]

/-- A table cut down to the addresses that pass a test, read at one that does. -/
theorem tableGet_filter {α : Type} {p : Nat → Bool} {a : Nat} (h : p a = true) (t : List (Nat × α)) :
    tableGet a (t.filter fun c => p c.1) = tableGet a t := by
  induction t with
  | nil => rfl
  | cons x t ih =>
    obtain ⟨k, w⟩ := x
    rw [List.filter_cons]
    by_cases hx : k = a
    · simp [tableGet_cons, hx, h]
    · split <;> simp [tableGet_cons, hx, ih]

/-- A byte of a retained segment holds what it held, written before or not. -/
theorem Memory.readByte_keepSegments (m : Memory) {kept : List Nat} {a : Nat}
    (h : segmentOfByte a ∈ kept) (draws : Vector Nat 8) :
    (m.keepSegments kept).readByte (redraw kept draws) a = m.readByte draws a := by
  unfold Memory.readByte Memory.keepSegments
  rw [drawsAt_redraw h, tableGet_filter (p := fun a => decide (segmentOfByte a ∈ kept)) (by simpa using h)]

/-- An index entry of a retained segment is what it was. -/
theorem Memory.readEntry_keepSegments (m : Memory) {kept : List Nat} {a : Nat}
    (h : segmentOfByte a ∈ kept) (draws : Vector Nat 8) :
    (m.keepSegments kept).readEntry (redraw kept draws) a = m.readEntry draws a := by
  unfold Memory.readEntry Memory.keepSegments
  rw [drawsAt_redraw h, tableGet_filter (p := fun a => decide (segmentOfByte a ∈ kept)) (by simpa using h)]

/-! ## The free set keeps its canonical form -/

theorem spansWf_nil : spansWf [] := by simp [spansWf]

/-- The tail of a canonical free set is canonical. -/
theorem spansWf.tail {s : Span} {t : List Span} (h : spansWf (s :: t)) : spansWf t :=
  ⟨fun x hx => h.1 x (List.mem_cons_of_mem _ hx), (List.pairwise_cons.mp h.2).2⟩

/-- A canonical free set: its first span is not empty, and every later one begins beyond a gap. -/
theorem spansWf_cons {s : Span} {t : List Span} :
    spansWf (s :: t) ↔ s.first ≤ s.last ∧ (∀ x ∈ t, s.last + 1 < x.first) ∧ spansWf t := by
  simp only [spansWf, List.forall_mem_cons, List.pairwise_cons]
  tauto

/-- Where the spans begin after a return: at the extent or where one began before. -/
theorem first_of_mem_freeExtent {e : Nat} {f : List Span} {x : Span} (h : x ∈ freeExtent e f) :
    x.first = e ∨ ∃ y ∈ f, y.first = x.first := by
  induction f with
  | nil => simp_all [freeExtent]
  | cons s t ih =>
    unfold freeExtent at h
    split at h
    · rcases List.mem_cons.mp h with rfl | h
      · exact .inl rfl
      · exact .inr ⟨x, h, rfl⟩
    · split at h
      · rcases List.mem_cons.mp h with rfl | h
        · exact .inl rfl
        · exact .inr ⟨x, List.mem_cons_of_mem _ h, rfl⟩
      · split at h
        · exact .inr ⟨x, h, rfl⟩
        · split at h
          · cases t with
            | nil => exact .inr ⟨s, by simp, by simp_all⟩
            | cons u t' =>
              simp only at h
              split at h <;> rcases List.mem_cons.mp h with rfl | h
              · exact .inr ⟨s, by simp, rfl⟩
              · exact .inr ⟨x, by simp [h], rfl⟩
              · exact .inr ⟨s, by simp, rfl⟩
              · exact .inr ⟨x, List.mem_cons_of_mem _ h, rfl⟩
          · rcases List.mem_cons.mp h with rfl | h
            · exact .inr ⟨x, by simp, rfl⟩
            · exact (ih h).imp_right fun ⟨y, hy, e⟩ => ⟨y, List.mem_cons_of_mem _ hy, e⟩

/-- A return keeps the canonical form (R41). -/
theorem spansWf_freeExtent {f : List Span} (h : spansWf f) (e : Nat) : spansWf (freeExtent e f) := by
  induction f with
  | nil => exact ⟨by simp [freeExtent], by simp [freeExtent]⟩
  | cons s t ih =>
    obtain ⟨hs, hgap, ht⟩ := spansWf_cons.mp h
    unfold freeExtent
    split
    · refine spansWf_cons.mpr ⟨Nat.le_refl e, fun x hx => ?_, h⟩
      rcases List.mem_cons.mp hx with rfl | hx
      · assumption
      · have := hgap x hx
        show e + 1 < x.first
        omega
    · split
      · exact spansWf_cons.mpr ⟨show e ≤ s.last by omega, hgap, ht⟩
      · split
        · exact h
        · split
          · cases t with
            | nil => exact spansWf_cons.mpr ⟨show s.first ≤ e by omega, by simp, spansWf_nil⟩
            | cons u t' =>
              obtain ⟨hu, hgu, ht'⟩ := spansWf_cons.mp ht
              have hsu := hgap u (by simp)
              simp only
              split
              · exact spansWf_cons.mpr ⟨show s.first ≤ u.last by omega, hgu, ht'⟩
              · refine spansWf_cons.mpr ⟨show s.first ≤ e by omega, fun x hx => ?_, ht⟩
                rcases List.mem_cons.mp hx with rfl | hx
                · show e + 1 < x.first
                  omega
                · have := hgu x hx
                  show e + 1 < x.first
                  omega
          · refine spansWf_cons.mpr ⟨hs, fun x hx => ?_, ih ht⟩
            rcases first_of_mem_freeExtent hx with hx | ⟨y, hy, hx⟩
            · omega
            · have := hgap y hy
              omega

theorem spansWf_returnExtents {f : List Span} (h : spansWf f) (es : List Nat) :
    spansWf (returnExtents es f) := by
  induction es generalizing f with
  | nil => exact h
  | cons e es ih => exact ih (spansWf_freeExtent h e)

end Sys2Proof.Machine
end

