-- ==== Sys2Proof/Laws/State.lean ====
section
/-! SUPPORT. Which fields each named operation of the state leaves alone, one lemma a field. -/

namespace Sys2Proof.Machine

variable (s : State)

/-! ## `State.setPort` at one port leaves the others alone -/

@[simp] theorem State.setPort_compose_press (r : PortRec) : (s.setPort .compose r).press = s.press := rfl
@[simp] theorem State.setPort_compose_proof (r : PortRec) : (s.setPort .compose r).proof = s.proof := rfl
@[simp] theorem State.setPort_press_compose (r : PortRec) : (s.setPort .press r).compose = s.compose := rfl
@[simp] theorem State.setPort_press_proof (r : PortRec) : (s.setPort .press r).proof = s.proof := rfl
@[simp] theorem State.setPort_proof_compose (r : PortRec) : (s.setPort .proof r).compose = s.compose := rfl
@[simp] theorem State.setPort_proof_press (r : PortRec) : (s.setPort .proof r).press = s.press := rfl

/-! ## `State.setPort`: a port's record is replaced -/

@[simp] theorem State.setPort_pressLate (p : Port) (r : PortRec) : (s.setPort p r).pressLate = s.pressLate :=
  by cases p <;> rfl
@[simp] theorem State.setPort_proofLate (p : Port) (r : PortRec) : (s.setPort p r).proofLate = s.proofLate :=
  by cases p <;> rfl
@[simp] theorem State.setPort_pages (p : Port) (r : PortRec) : (s.setPort p r).pages = s.pages :=
  by cases p <;> rfl
@[simp] theorem State.setPort_freeRecords (p : Port) (r : PortRec) : (s.setPort p r).freeRecords = s.freeRecords :=
  by cases p <;> rfl
@[simp] theorem State.setPort_freeSet (p : Port) (r : PortRec) : (s.setPort p r).freeSet = s.freeSet :=
  by cases p <;> rfl
@[simp] theorem State.setPort_store (p : Port) (r : PortRec) : (s.setPort p r).store = s.store :=
  by cases p <;> rfl
@[simp] theorem State.setPort_undefinedDraws (p : Port) (r : PortRec) : (s.setPort p r).undefinedDraws = s.undefinedDraws :=
  by cases p <;> rfl
@[simp] theorem State.setPort_queue (p : Port) (r : PortRec) : (s.setPort p r).queue = s.queue :=
  by cases p <;> rfl
@[simp] theorem State.setPort_delivering (p : Port) (r : PortRec) : (s.setPort p r).delivering = s.delivering :=
  by cases p <;> rfl
@[simp] theorem State.setPort_encoder (p : Port) (r : PortRec) : (s.setPort p r).encoder = s.encoder :=
  by cases p <;> rfl
@[simp] theorem State.setPort_pressChannel (p : Port) (r : PortRec) : (s.setPort p r).pressChannel = s.pressChannel :=
  by cases p <;> rfl
@[simp] theorem State.setPort_proofChannel (p : Port) (r : PortRec) : (s.setPort p r).proofChannel = s.proofChannel :=
  by cases p <;> rfl
@[simp] theorem State.setPort_delivery (p : Port) (r : PortRec) : (s.setPort p r).delivery = s.delivery :=
  by cases p <;> rfl
@[simp] theorem State.setPort_view (p : Port) (r : PortRec) : (s.setPort p r).view = s.view :=
  by cases p <;> rfl
@[simp] theorem State.setPort_sched (p : Port) (r : PortRec) : (s.setPort p r).sched = s.sched :=
  by cases p <;> rfl
@[simp] theorem State.setPort_lastReading (p : Port) (r : PortRec) : (s.setPort p r).lastReading = s.lastReading :=
  by cases p <;> rfl
@[simp] theorem State.setPort_thermal (p : Port) (r : PortRec) : (s.setPort p r).thermal = s.thermal :=
  by cases p <;> rfl
@[simp] theorem State.setPort_mode (p : Port) (r : PortRec) : (s.setPort p r).mode = s.mode :=
  by cases p <;> rfl
@[simp] theorem State.setPort_retained (p : Port) (r : PortRec) : (s.setPort p r).retained = s.retained :=
  by cases p <;> rfl
@[simp] theorem State.setPort_pending (p : Port) (r : PortRec) : (s.setPort p r).pending = s.pending :=
  by cases p <;> rfl

/-! ## `State.updatePort` at one port leaves the others alone -/

@[simp] theorem State.updatePort_compose_press (f : PortRec → PortRec) : (s.updatePort .compose f).press = s.press := rfl
@[simp] theorem State.updatePort_compose_proof (f : PortRec → PortRec) : (s.updatePort .compose f).proof = s.proof := rfl
@[simp] theorem State.updatePort_press_compose (f : PortRec → PortRec) : (s.updatePort .press f).compose = s.compose := rfl
@[simp] theorem State.updatePort_press_proof (f : PortRec → PortRec) : (s.updatePort .press f).proof = s.proof := rfl
@[simp] theorem State.updatePort_proof_compose (f : PortRec → PortRec) : (s.updatePort .proof f).compose = s.compose := rfl
@[simp] theorem State.updatePort_proof_press (f : PortRec → PortRec) : (s.updatePort .proof f).press = s.press := rfl

/-! ## `State.updatePort`: a port's record is changed -/

@[simp] theorem State.updatePort_pressLate (p : Port) (f : PortRec → PortRec) : (s.updatePort p f).pressLate = s.pressLate :=
  by cases p <;> rfl
@[simp] theorem State.updatePort_proofLate (p : Port) (f : PortRec → PortRec) : (s.updatePort p f).proofLate = s.proofLate :=
  by cases p <;> rfl
@[simp] theorem State.updatePort_pages (p : Port) (f : PortRec → PortRec) : (s.updatePort p f).pages = s.pages :=
  by cases p <;> rfl
@[simp] theorem State.updatePort_freeRecords (p : Port) (f : PortRec → PortRec) : (s.updatePort p f).freeRecords = s.freeRecords :=
  by cases p <;> rfl
@[simp] theorem State.updatePort_freeSet (p : Port) (f : PortRec → PortRec) : (s.updatePort p f).freeSet = s.freeSet :=
  by cases p <;> rfl
@[simp] theorem State.updatePort_store (p : Port) (f : PortRec → PortRec) : (s.updatePort p f).store = s.store :=
  by cases p <;> rfl
@[simp] theorem State.updatePort_undefinedDraws (p : Port) (f : PortRec → PortRec) : (s.updatePort p f).undefinedDraws = s.undefinedDraws :=
  by cases p <;> rfl
@[simp] theorem State.updatePort_queue (p : Port) (f : PortRec → PortRec) : (s.updatePort p f).queue = s.queue :=
  by cases p <;> rfl
@[simp] theorem State.updatePort_delivering (p : Port) (f : PortRec → PortRec) : (s.updatePort p f).delivering = s.delivering :=
  by cases p <;> rfl
@[simp] theorem State.updatePort_encoder (p : Port) (f : PortRec → PortRec) : (s.updatePort p f).encoder = s.encoder :=
  by cases p <;> rfl
@[simp] theorem State.updatePort_pressChannel (p : Port) (f : PortRec → PortRec) : (s.updatePort p f).pressChannel = s.pressChannel :=
  by cases p <;> rfl
@[simp] theorem State.updatePort_proofChannel (p : Port) (f : PortRec → PortRec) : (s.updatePort p f).proofChannel = s.proofChannel :=
  by cases p <;> rfl
@[simp] theorem State.updatePort_delivery (p : Port) (f : PortRec → PortRec) : (s.updatePort p f).delivery = s.delivery :=
  by cases p <;> rfl
@[simp] theorem State.updatePort_view (p : Port) (f : PortRec → PortRec) : (s.updatePort p f).view = s.view :=
  by cases p <;> rfl
@[simp] theorem State.updatePort_sched (p : Port) (f : PortRec → PortRec) : (s.updatePort p f).sched = s.sched :=
  by cases p <;> rfl
@[simp] theorem State.updatePort_lastReading (p : Port) (f : PortRec → PortRec) : (s.updatePort p f).lastReading = s.lastReading :=
  by cases p <;> rfl
@[simp] theorem State.updatePort_thermal (p : Port) (f : PortRec → PortRec) : (s.updatePort p f).thermal = s.thermal :=
  by cases p <;> rfl
@[simp] theorem State.updatePort_mode (p : Port) (f : PortRec → PortRec) : (s.updatePort p f).mode = s.mode :=
  by cases p <;> rfl
@[simp] theorem State.updatePort_retained (p : Port) (f : PortRec → PortRec) : (s.updatePort p f).retained = s.retained :=
  by cases p <;> rfl
@[simp] theorem State.updatePort_pending (p : Port) (f : PortRec → PortRec) : (s.updatePort p f).pending = s.pending :=
  by cases p <;> rfl

/-! ## `State.setPortState` at one port leaves the others alone -/

@[simp] theorem State.setPortState_compose_press (x : PortState) : (s.setPortState .compose x).press = s.press := rfl
@[simp] theorem State.setPortState_compose_proof (x : PortState) : (s.setPortState .compose x).proof = s.proof := rfl
@[simp] theorem State.setPortState_press_compose (x : PortState) : (s.setPortState .press x).compose = s.compose := rfl
@[simp] theorem State.setPortState_press_proof (x : PortState) : (s.setPortState .press x).proof = s.proof := rfl
@[simp] theorem State.setPortState_proof_compose (x : PortState) : (s.setPortState .proof x).compose = s.compose := rfl
@[simp] theorem State.setPortState_proof_press (x : PortState) : (s.setPortState .proof x).press = s.press := rfl

/-! ## `State.setPortState`: a port changes state -/

@[simp] theorem State.setPortState_pressLate (p : Port) (x : PortState) : (s.setPortState p x).pressLate = s.pressLate :=
  by cases p <;> rfl
@[simp] theorem State.setPortState_proofLate (p : Port) (x : PortState) : (s.setPortState p x).proofLate = s.proofLate :=
  by cases p <;> rfl
@[simp] theorem State.setPortState_pages (p : Port) (x : PortState) : (s.setPortState p x).pages = s.pages :=
  by cases p <;> rfl
@[simp] theorem State.setPortState_freeRecords (p : Port) (x : PortState) : (s.setPortState p x).freeRecords = s.freeRecords :=
  by cases p <;> rfl
@[simp] theorem State.setPortState_freeSet (p : Port) (x : PortState) : (s.setPortState p x).freeSet = s.freeSet :=
  by cases p <;> rfl
@[simp] theorem State.setPortState_store (p : Port) (x : PortState) : (s.setPortState p x).store = s.store :=
  by cases p <;> rfl
@[simp] theorem State.setPortState_undefinedDraws (p : Port) (x : PortState) : (s.setPortState p x).undefinedDraws = s.undefinedDraws :=
  by cases p <;> rfl
@[simp] theorem State.setPortState_queue (p : Port) (x : PortState) : (s.setPortState p x).queue = s.queue :=
  by cases p <;> rfl
@[simp] theorem State.setPortState_delivering (p : Port) (x : PortState) : (s.setPortState p x).delivering = s.delivering :=
  by cases p <;> rfl
@[simp] theorem State.setPortState_encoder (p : Port) (x : PortState) : (s.setPortState p x).encoder = s.encoder :=
  by cases p <;> rfl
@[simp] theorem State.setPortState_pressChannel (p : Port) (x : PortState) : (s.setPortState p x).pressChannel = s.pressChannel :=
  by cases p <;> rfl
@[simp] theorem State.setPortState_proofChannel (p : Port) (x : PortState) : (s.setPortState p x).proofChannel = s.proofChannel :=
  by cases p <;> rfl
@[simp] theorem State.setPortState_delivery (p : Port) (x : PortState) : (s.setPortState p x).delivery = s.delivery :=
  by cases p <;> rfl
@[simp] theorem State.setPortState_view (p : Port) (x : PortState) : (s.setPortState p x).view = s.view :=
  by cases p <;> rfl
@[simp] theorem State.setPortState_sched (p : Port) (x : PortState) : (s.setPortState p x).sched = s.sched :=
  by cases p <;> rfl
@[simp] theorem State.setPortState_lastReading (p : Port) (x : PortState) : (s.setPortState p x).lastReading = s.lastReading :=
  by cases p <;> rfl
@[simp] theorem State.setPortState_thermal (p : Port) (x : PortState) : (s.setPortState p x).thermal = s.thermal :=
  by cases p <;> rfl
@[simp] theorem State.setPortState_mode (p : Port) (x : PortState) : (s.setPortState p x).mode = s.mode :=
  by cases p <;> rfl
@[simp] theorem State.setPortState_retained (p : Port) (x : PortState) : (s.setPortState p x).retained = s.retained :=
  by cases p <;> rfl
@[simp] theorem State.setPortState_pending (p : Port) (x : PortState) : (s.setPortState p x).pending = s.pending :=
  by cases p <;> rfl

/-! ## `State.send` at one port leaves the others alone -/

@[simp] theorem State.send_compose_press (f : Frame) : (s.send .compose f).press = s.press := rfl
@[simp] theorem State.send_compose_proof (f : Frame) : (s.send .compose f).proof = s.proof := rfl
@[simp] theorem State.send_press_compose (f : Frame) : (s.send .press f).compose = s.compose := rfl
@[simp] theorem State.send_press_proof (f : Frame) : (s.send .press f).proof = s.proof := rfl
@[simp] theorem State.send_proof_compose (f : Frame) : (s.send .proof f).compose = s.compose := rfl
@[simp] theorem State.send_proof_press (f : Frame) : (s.send .proof f).press = s.press := rfl

/-! ## `State.send`: a frame is produced -/

@[simp] theorem State.send_pressLate (p : Port) (f : Frame) : (s.send p f).pressLate = s.pressLate :=
  by cases p <;> rfl
@[simp] theorem State.send_proofLate (p : Port) (f : Frame) : (s.send p f).proofLate = s.proofLate :=
  by cases p <;> rfl
@[simp] theorem State.send_pages (p : Port) (f : Frame) : (s.send p f).pages = s.pages :=
  by cases p <;> rfl
@[simp] theorem State.send_freeRecords (p : Port) (f : Frame) : (s.send p f).freeRecords = s.freeRecords :=
  by cases p <;> rfl
@[simp] theorem State.send_freeSet (p : Port) (f : Frame) : (s.send p f).freeSet = s.freeSet :=
  by cases p <;> rfl
@[simp] theorem State.send_store (p : Port) (f : Frame) : (s.send p f).store = s.store :=
  by cases p <;> rfl
@[simp] theorem State.send_undefinedDraws (p : Port) (f : Frame) : (s.send p f).undefinedDraws = s.undefinedDraws :=
  by cases p <;> rfl
@[simp] theorem State.send_queue (p : Port) (f : Frame) : (s.send p f).queue = s.queue :=
  by cases p <;> rfl
@[simp] theorem State.send_delivering (p : Port) (f : Frame) : (s.send p f).delivering = s.delivering :=
  by cases p <;> rfl
@[simp] theorem State.send_encoder (p : Port) (f : Frame) : (s.send p f).encoder = s.encoder :=
  by cases p <;> rfl
@[simp] theorem State.send_pressChannel (p : Port) (f : Frame) : (s.send p f).pressChannel = s.pressChannel :=
  by cases p <;> rfl
@[simp] theorem State.send_proofChannel (p : Port) (f : Frame) : (s.send p f).proofChannel = s.proofChannel :=
  by cases p <;> rfl
@[simp] theorem State.send_delivery (p : Port) (f : Frame) : (s.send p f).delivery = s.delivery :=
  by cases p <;> rfl
@[simp] theorem State.send_view (p : Port) (f : Frame) : (s.send p f).view = s.view :=
  by cases p <;> rfl
@[simp] theorem State.send_sched (p : Port) (f : Frame) : (s.send p f).sched = s.sched :=
  by cases p <;> rfl
@[simp] theorem State.send_lastReading (p : Port) (f : Frame) : (s.send p f).lastReading = s.lastReading :=
  by cases p <;> rfl
@[simp] theorem State.send_thermal (p : Port) (f : Frame) : (s.send p f).thermal = s.thermal :=
  by cases p <;> rfl
@[simp] theorem State.send_mode (p : Port) (f : Frame) : (s.send p f).mode = s.mode :=
  by cases p <;> rfl
@[simp] theorem State.send_retained (p : Port) (f : Frame) : (s.send p f).retained = s.retained :=
  by cases p <;> rfl
@[simp] theorem State.send_pending (p : Port) (f : Frame) : (s.send p f).pending = s.pending :=
  by cases p <;> rfl

/-! ## `State.markStray` at one port leaves the others alone -/

@[simp] theorem State.markStray_compose_press : (s.markStray .compose).press = s.press := rfl
@[simp] theorem State.markStray_compose_proof : (s.markStray .compose).proof = s.proof := rfl
@[simp] theorem State.markStray_press_compose : (s.markStray .press).compose = s.compose := rfl
@[simp] theorem State.markStray_press_proof : (s.markStray .press).proof = s.proof := rfl
@[simp] theorem State.markStray_proof_compose : (s.markStray .proof).compose = s.compose := rfl
@[simp] theorem State.markStray_proof_press : (s.markStray .proof).press = s.press := rfl

/-! ## `State.markStray`: STRAY is set -/

@[simp] theorem State.markStray_pressLate (p : Port) : (s.markStray p).pressLate = s.pressLate :=
  by cases p <;> rfl
@[simp] theorem State.markStray_proofLate (p : Port) : (s.markStray p).proofLate = s.proofLate :=
  by cases p <;> rfl
@[simp] theorem State.markStray_pages (p : Port) : (s.markStray p).pages = s.pages :=
  by cases p <;> rfl
@[simp] theorem State.markStray_freeRecords (p : Port) : (s.markStray p).freeRecords = s.freeRecords :=
  by cases p <;> rfl
@[simp] theorem State.markStray_freeSet (p : Port) : (s.markStray p).freeSet = s.freeSet :=
  by cases p <;> rfl
@[simp] theorem State.markStray_store (p : Port) : (s.markStray p).store = s.store :=
  by cases p <;> rfl
@[simp] theorem State.markStray_undefinedDraws (p : Port) : (s.markStray p).undefinedDraws = s.undefinedDraws :=
  by cases p <;> rfl
@[simp] theorem State.markStray_queue (p : Port) : (s.markStray p).queue = s.queue :=
  by cases p <;> rfl
@[simp] theorem State.markStray_delivering (p : Port) : (s.markStray p).delivering = s.delivering :=
  by cases p <;> rfl
@[simp] theorem State.markStray_encoder (p : Port) : (s.markStray p).encoder = s.encoder :=
  by cases p <;> rfl
@[simp] theorem State.markStray_pressChannel (p : Port) : (s.markStray p).pressChannel = s.pressChannel :=
  by cases p <;> rfl
@[simp] theorem State.markStray_proofChannel (p : Port) : (s.markStray p).proofChannel = s.proofChannel :=
  by cases p <;> rfl
@[simp] theorem State.markStray_delivery (p : Port) : (s.markStray p).delivery = s.delivery :=
  by cases p <;> rfl
@[simp] theorem State.markStray_view (p : Port) : (s.markStray p).view = s.view :=
  by cases p <;> rfl
@[simp] theorem State.markStray_sched (p : Port) : (s.markStray p).sched = s.sched :=
  by cases p <;> rfl
@[simp] theorem State.markStray_lastReading (p : Port) : (s.markStray p).lastReading = s.lastReading :=
  by cases p <;> rfl
@[simp] theorem State.markStray_thermal (p : Port) : (s.markStray p).thermal = s.thermal :=
  by cases p <;> rfl
@[simp] theorem State.markStray_mode (p : Port) : (s.markStray p).mode = s.mode :=
  by cases p <;> rfl
@[simp] theorem State.markStray_retained (p : Port) : (s.markStray p).retained = s.retained :=
  by cases p <;> rfl
@[simp] theorem State.markStray_pending (p : Port) : (s.markStray p).pending = s.pending :=
  by cases p <;> rfl

/-! ## `State.reply` at one port leaves the others alone -/

@[simp] theorem State.reply_compose_press (c : Byte) (x : Result) (l : List Byte) : (s.reply .compose c x l).press = s.press := rfl
@[simp] theorem State.reply_compose_proof (c : Byte) (x : Result) (l : List Byte) : (s.reply .compose c x l).proof = s.proof := rfl
@[simp] theorem State.reply_press_compose (c : Byte) (x : Result) (l : List Byte) : (s.reply .press c x l).compose = s.compose := rfl
@[simp] theorem State.reply_press_proof (c : Byte) (x : Result) (l : List Byte) : (s.reply .press c x l).proof = s.proof := rfl
@[simp] theorem State.reply_proof_compose (c : Byte) (x : Result) (l : List Byte) : (s.reply .proof c x l).compose = s.compose := rfl
@[simp] theorem State.reply_proof_press (c : Byte) (x : Result) (l : List Byte) : (s.reply .proof c x l).press = s.press := rfl

/-! ## `State.reply`: a reply is produced -/

@[simp] theorem State.reply_pressLate (p : Port) (c : Byte) (x : Result) (l : List Byte) : (s.reply p c x l).pressLate = s.pressLate :=
  by cases p <;> rfl
@[simp] theorem State.reply_proofLate (p : Port) (c : Byte) (x : Result) (l : List Byte) : (s.reply p c x l).proofLate = s.proofLate :=
  by cases p <;> rfl
@[simp] theorem State.reply_pages (p : Port) (c : Byte) (x : Result) (l : List Byte) : (s.reply p c x l).pages = s.pages :=
  by cases p <;> rfl
@[simp] theorem State.reply_freeRecords (p : Port) (c : Byte) (x : Result) (l : List Byte) : (s.reply p c x l).freeRecords = s.freeRecords :=
  by cases p <;> rfl
@[simp] theorem State.reply_freeSet (p : Port) (c : Byte) (x : Result) (l : List Byte) : (s.reply p c x l).freeSet = s.freeSet :=
  by cases p <;> rfl
@[simp] theorem State.reply_store (p : Port) (c : Byte) (x : Result) (l : List Byte) : (s.reply p c x l).store = s.store :=
  by cases p <;> rfl
@[simp] theorem State.reply_undefinedDraws (p : Port) (c : Byte) (x : Result) (l : List Byte) : (s.reply p c x l).undefinedDraws = s.undefinedDraws :=
  by cases p <;> rfl
@[simp] theorem State.reply_queue (p : Port) (c : Byte) (x : Result) (l : List Byte) : (s.reply p c x l).queue = s.queue :=
  by cases p <;> rfl
@[simp] theorem State.reply_delivering (p : Port) (c : Byte) (x : Result) (l : List Byte) : (s.reply p c x l).delivering = s.delivering :=
  by cases p <;> rfl
@[simp] theorem State.reply_encoder (p : Port) (c : Byte) (x : Result) (l : List Byte) : (s.reply p c x l).encoder = s.encoder :=
  by cases p <;> rfl
@[simp] theorem State.reply_pressChannel (p : Port) (c : Byte) (x : Result) (l : List Byte) : (s.reply p c x l).pressChannel = s.pressChannel :=
  by cases p <;> rfl
@[simp] theorem State.reply_proofChannel (p : Port) (c : Byte) (x : Result) (l : List Byte) : (s.reply p c x l).proofChannel = s.proofChannel :=
  by cases p <;> rfl
@[simp] theorem State.reply_delivery (p : Port) (c : Byte) (x : Result) (l : List Byte) : (s.reply p c x l).delivery = s.delivery :=
  by cases p <;> rfl
@[simp] theorem State.reply_view (p : Port) (c : Byte) (x : Result) (l : List Byte) : (s.reply p c x l).view = s.view :=
  by cases p <;> rfl
@[simp] theorem State.reply_sched (p : Port) (c : Byte) (x : Result) (l : List Byte) : (s.reply p c x l).sched = s.sched :=
  by cases p <;> rfl
@[simp] theorem State.reply_lastReading (p : Port) (c : Byte) (x : Result) (l : List Byte) : (s.reply p c x l).lastReading = s.lastReading :=
  by cases p <;> rfl
@[simp] theorem State.reply_thermal (p : Port) (c : Byte) (x : Result) (l : List Byte) : (s.reply p c x l).thermal = s.thermal :=
  by cases p <;> rfl
@[simp] theorem State.reply_mode (p : Port) (c : Byte) (x : Result) (l : List Byte) : (s.reply p c x l).mode = s.mode :=
  by cases p <;> rfl
@[simp] theorem State.reply_retained (p : Port) (c : Byte) (x : Result) (l : List Byte) : (s.reply p c x l).retained = s.retained :=
  by cases p <;> rfl
@[simp] theorem State.reply_pending (p : Port) (c : Byte) (x : Result) (l : List Byte) : (s.reply p c x l).pending = s.pending :=
  by cases p <;> rfl

/-! ## `State.strayBlock`: a stray line block is answered -/

@[simp] theorem State.strayBlock_pressLate (p : Port) : (s.strayBlock p).pressLate = s.pressLate :=
  by cases p <;> rfl
@[simp] theorem State.strayBlock_proofLate (p : Port) : (s.strayBlock p).proofLate = s.proofLate :=
  by cases p <;> rfl
@[simp] theorem State.strayBlock_pages (p : Port) : (s.strayBlock p).pages = s.pages :=
  by cases p <;> rfl
@[simp] theorem State.strayBlock_freeRecords (p : Port) : (s.strayBlock p).freeRecords = s.freeRecords :=
  by cases p <;> rfl
@[simp] theorem State.strayBlock_freeSet (p : Port) : (s.strayBlock p).freeSet = s.freeSet :=
  by cases p <;> rfl
@[simp] theorem State.strayBlock_store (p : Port) : (s.strayBlock p).store = s.store :=
  by cases p <;> rfl
@[simp] theorem State.strayBlock_undefinedDraws (p : Port) : (s.strayBlock p).undefinedDraws = s.undefinedDraws :=
  by cases p <;> rfl
@[simp] theorem State.strayBlock_queue (p : Port) : (s.strayBlock p).queue = s.queue :=
  by cases p <;> rfl
@[simp] theorem State.strayBlock_delivering (p : Port) : (s.strayBlock p).delivering = s.delivering :=
  by cases p <;> rfl
@[simp] theorem State.strayBlock_encoder (p : Port) : (s.strayBlock p).encoder = s.encoder :=
  by cases p <;> rfl
@[simp] theorem State.strayBlock_pressChannel (p : Port) : (s.strayBlock p).pressChannel = s.pressChannel :=
  by cases p <;> rfl
@[simp] theorem State.strayBlock_proofChannel (p : Port) : (s.strayBlock p).proofChannel = s.proofChannel :=
  by cases p <;> rfl
@[simp] theorem State.strayBlock_delivery (p : Port) : (s.strayBlock p).delivery = s.delivery :=
  by cases p <;> rfl
@[simp] theorem State.strayBlock_view (p : Port) : (s.strayBlock p).view = s.view :=
  by cases p <;> rfl
@[simp] theorem State.strayBlock_sched (p : Port) : (s.strayBlock p).sched = s.sched :=
  by cases p <;> rfl
@[simp] theorem State.strayBlock_lastReading (p : Port) : (s.strayBlock p).lastReading = s.lastReading :=
  by cases p <;> rfl
@[simp] theorem State.strayBlock_thermal (p : Port) : (s.strayBlock p).thermal = s.thermal :=
  by cases p <;> rfl
@[simp] theorem State.strayBlock_mode (p : Port) : (s.strayBlock p).mode = s.mode :=
  by cases p <;> rfl
@[simp] theorem State.strayBlock_retained (p : Port) : (s.strayBlock p).retained = s.retained :=
  by cases p <;> rfl
@[simp] theorem State.strayBlock_pending (p : Port) : (s.strayBlock p).pending = s.pending :=
  by cases p <;> rfl

/-! ## `State.setPage`: a record is replaced -/

@[simp] theorem State.setPage_compose (h : Handle) (r : PageRecord) : (s.setPage h r).compose = s.compose :=
  rfl
@[simp] theorem State.setPage_press (h : Handle) (r : PageRecord) : (s.setPage h r).press = s.press :=
  rfl
@[simp] theorem State.setPage_proof (h : Handle) (r : PageRecord) : (s.setPage h r).proof = s.proof :=
  rfl
@[simp] theorem State.setPage_pressLate (h : Handle) (r : PageRecord) : (s.setPage h r).pressLate = s.pressLate :=
  rfl
@[simp] theorem State.setPage_proofLate (h : Handle) (r : PageRecord) : (s.setPage h r).proofLate = s.proofLate :=
  rfl
@[simp] theorem State.setPage_freeRecords (h : Handle) (r : PageRecord) : (s.setPage h r).freeRecords = s.freeRecords :=
  rfl
@[simp] theorem State.setPage_freeSet (h : Handle) (r : PageRecord) : (s.setPage h r).freeSet = s.freeSet :=
  rfl
@[simp] theorem State.setPage_store (h : Handle) (r : PageRecord) : (s.setPage h r).store = s.store :=
  rfl
@[simp] theorem State.setPage_undefinedDraws (h : Handle) (r : PageRecord) : (s.setPage h r).undefinedDraws = s.undefinedDraws :=
  rfl
@[simp] theorem State.setPage_queue (h : Handle) (r : PageRecord) : (s.setPage h r).queue = s.queue :=
  rfl
@[simp] theorem State.setPage_delivering (h : Handle) (r : PageRecord) : (s.setPage h r).delivering = s.delivering :=
  rfl
@[simp] theorem State.setPage_encoder (h : Handle) (r : PageRecord) : (s.setPage h r).encoder = s.encoder :=
  rfl
@[simp] theorem State.setPage_pressChannel (h : Handle) (r : PageRecord) : (s.setPage h r).pressChannel = s.pressChannel :=
  rfl
@[simp] theorem State.setPage_proofChannel (h : Handle) (r : PageRecord) : (s.setPage h r).proofChannel = s.proofChannel :=
  rfl
@[simp] theorem State.setPage_delivery (h : Handle) (r : PageRecord) : (s.setPage h r).delivery = s.delivery :=
  rfl
@[simp] theorem State.setPage_view (h : Handle) (r : PageRecord) : (s.setPage h r).view = s.view :=
  rfl
@[simp] theorem State.setPage_sched (h : Handle) (r : PageRecord) : (s.setPage h r).sched = s.sched :=
  rfl
@[simp] theorem State.setPage_lastReading (h : Handle) (r : PageRecord) : (s.setPage h r).lastReading = s.lastReading :=
  rfl
@[simp] theorem State.setPage_thermal (h : Handle) (r : PageRecord) : (s.setPage h r).thermal = s.thermal :=
  rfl
@[simp] theorem State.setPage_mode (h : Handle) (r : PageRecord) : (s.setPage h r).mode = s.mode :=
  rfl
@[simp] theorem State.setPage_retained (h : Handle) (r : PageRecord) : (s.setPage h r).retained = s.retained :=
  rfl
@[simp] theorem State.setPage_pending (h : Handle) (r : PageRecord) : (s.setPage h r).pending = s.pending :=
  rfl

/-! ## `State.updatePage`: a record is changed -/

@[simp] theorem State.updatePage_compose (h : Handle) (f : PageRecord → PageRecord) : (s.updatePage h f).compose = s.compose :=
  rfl
@[simp] theorem State.updatePage_press (h : Handle) (f : PageRecord → PageRecord) : (s.updatePage h f).press = s.press :=
  rfl
@[simp] theorem State.updatePage_proof (h : Handle) (f : PageRecord → PageRecord) : (s.updatePage h f).proof = s.proof :=
  rfl
@[simp] theorem State.updatePage_pressLate (h : Handle) (f : PageRecord → PageRecord) : (s.updatePage h f).pressLate = s.pressLate :=
  rfl
@[simp] theorem State.updatePage_proofLate (h : Handle) (f : PageRecord → PageRecord) : (s.updatePage h f).proofLate = s.proofLate :=
  rfl
@[simp] theorem State.updatePage_freeRecords (h : Handle) (f : PageRecord → PageRecord) : (s.updatePage h f).freeRecords = s.freeRecords :=
  rfl
@[simp] theorem State.updatePage_freeSet (h : Handle) (f : PageRecord → PageRecord) : (s.updatePage h f).freeSet = s.freeSet :=
  rfl
@[simp] theorem State.updatePage_store (h : Handle) (f : PageRecord → PageRecord) : (s.updatePage h f).store = s.store :=
  rfl
@[simp] theorem State.updatePage_undefinedDraws (h : Handle) (f : PageRecord → PageRecord) : (s.updatePage h f).undefinedDraws = s.undefinedDraws :=
  rfl
@[simp] theorem State.updatePage_queue (h : Handle) (f : PageRecord → PageRecord) : (s.updatePage h f).queue = s.queue :=
  rfl
@[simp] theorem State.updatePage_delivering (h : Handle) (f : PageRecord → PageRecord) : (s.updatePage h f).delivering = s.delivering :=
  rfl
@[simp] theorem State.updatePage_encoder (h : Handle) (f : PageRecord → PageRecord) : (s.updatePage h f).encoder = s.encoder :=
  rfl
@[simp] theorem State.updatePage_pressChannel (h : Handle) (f : PageRecord → PageRecord) : (s.updatePage h f).pressChannel = s.pressChannel :=
  rfl
@[simp] theorem State.updatePage_proofChannel (h : Handle) (f : PageRecord → PageRecord) : (s.updatePage h f).proofChannel = s.proofChannel :=
  rfl
@[simp] theorem State.updatePage_delivery (h : Handle) (f : PageRecord → PageRecord) : (s.updatePage h f).delivery = s.delivery :=
  rfl
@[simp] theorem State.updatePage_view (h : Handle) (f : PageRecord → PageRecord) : (s.updatePage h f).view = s.view :=
  rfl
@[simp] theorem State.updatePage_sched (h : Handle) (f : PageRecord → PageRecord) : (s.updatePage h f).sched = s.sched :=
  rfl
@[simp] theorem State.updatePage_lastReading (h : Handle) (f : PageRecord → PageRecord) : (s.updatePage h f).lastReading = s.lastReading :=
  rfl
@[simp] theorem State.updatePage_thermal (h : Handle) (f : PageRecord → PageRecord) : (s.updatePage h f).thermal = s.thermal :=
  rfl
@[simp] theorem State.updatePage_mode (h : Handle) (f : PageRecord → PageRecord) : (s.updatePage h f).mode = s.mode :=
  rfl
@[simp] theorem State.updatePage_retained (h : Handle) (f : PageRecord → PageRecord) : (s.updatePage h f).retained = s.retained :=
  rfl
@[simp] theorem State.updatePage_pending (h : Handle) (f : PageRecord → PageRecord) : (s.updatePage h f).pending = s.pending :=
  rfl

/-! ## `State.addRefs`: references begin -/

@[simp] theorem State.addRefs_compose (h : Handle) (n : Nat) : (s.addRefs h n).compose = s.compose :=
  rfl
@[simp] theorem State.addRefs_press (h : Handle) (n : Nat) : (s.addRefs h n).press = s.press := rfl
@[simp] theorem State.addRefs_proof (h : Handle) (n : Nat) : (s.addRefs h n).proof = s.proof := rfl
@[simp] theorem State.addRefs_pressLate (h : Handle) (n : Nat) : (s.addRefs h n).pressLate = s.pressLate :=
  rfl
@[simp] theorem State.addRefs_proofLate (h : Handle) (n : Nat) : (s.addRefs h n).proofLate = s.proofLate :=
  rfl
@[simp] theorem State.addRefs_freeRecords (h : Handle) (n : Nat) : (s.addRefs h n).freeRecords = s.freeRecords :=
  rfl
@[simp] theorem State.addRefs_freeSet (h : Handle) (n : Nat) : (s.addRefs h n).freeSet = s.freeSet :=
  rfl
@[simp] theorem State.addRefs_store (h : Handle) (n : Nat) : (s.addRefs h n).store = s.store := rfl
@[simp] theorem State.addRefs_undefinedDraws (h : Handle) (n : Nat) : (s.addRefs h n).undefinedDraws = s.undefinedDraws :=
  rfl
@[simp] theorem State.addRefs_queue (h : Handle) (n : Nat) : (s.addRefs h n).queue = s.queue := rfl
@[simp] theorem State.addRefs_delivering (h : Handle) (n : Nat) : (s.addRefs h n).delivering = s.delivering :=
  rfl
@[simp] theorem State.addRefs_encoder (h : Handle) (n : Nat) : (s.addRefs h n).encoder = s.encoder :=
  rfl
@[simp] theorem State.addRefs_pressChannel (h : Handle) (n : Nat) : (s.addRefs h n).pressChannel = s.pressChannel :=
  rfl
@[simp] theorem State.addRefs_proofChannel (h : Handle) (n : Nat) : (s.addRefs h n).proofChannel = s.proofChannel :=
  rfl
@[simp] theorem State.addRefs_delivery (h : Handle) (n : Nat) : (s.addRefs h n).delivery = s.delivery :=
  rfl
@[simp] theorem State.addRefs_view (h : Handle) (n : Nat) : (s.addRefs h n).view = s.view := rfl
@[simp] theorem State.addRefs_sched (h : Handle) (n : Nat) : (s.addRefs h n).sched = s.sched := rfl
@[simp] theorem State.addRefs_lastReading (h : Handle) (n : Nat) : (s.addRefs h n).lastReading = s.lastReading :=
  rfl
@[simp] theorem State.addRefs_thermal (h : Handle) (n : Nat) : (s.addRefs h n).thermal = s.thermal :=
  rfl
@[simp] theorem State.addRefs_mode (h : Handle) (n : Nat) : (s.addRefs h n).mode = s.mode := rfl
@[simp] theorem State.addRefs_retained (h : Handle) (n : Nat) : (s.addRefs h n).retained = s.retained :=
  rfl
@[simp] theorem State.addRefs_pending (h : Handle) (n : Nat) : (s.addRefs h n).pending = s.pending :=
  rfl

/-! ## `State.reportDamage`: damage is reported -/

@[simp] theorem State.reportDamage_compose (h : Handle) (n : Nat) : (s.reportDamage h n).compose = s.compose :=
  rfl
@[simp] theorem State.reportDamage_press (h : Handle) (n : Nat) : (s.reportDamage h n).press = s.press :=
  rfl
@[simp] theorem State.reportDamage_proof (h : Handle) (n : Nat) : (s.reportDamage h n).proof = s.proof :=
  rfl
@[simp] theorem State.reportDamage_pressLate (h : Handle) (n : Nat) : (s.reportDamage h n).pressLate = s.pressLate :=
  rfl
@[simp] theorem State.reportDamage_proofLate (h : Handle) (n : Nat) : (s.reportDamage h n).proofLate = s.proofLate :=
  rfl
@[simp] theorem State.reportDamage_freeRecords (h : Handle) (n : Nat) : (s.reportDamage h n).freeRecords = s.freeRecords :=
  rfl
@[simp] theorem State.reportDamage_freeSet (h : Handle) (n : Nat) : (s.reportDamage h n).freeSet = s.freeSet :=
  rfl
@[simp] theorem State.reportDamage_store (h : Handle) (n : Nat) : (s.reportDamage h n).store = s.store :=
  rfl
@[simp] theorem State.reportDamage_undefinedDraws (h : Handle) (n : Nat) : (s.reportDamage h n).undefinedDraws = s.undefinedDraws :=
  rfl
@[simp] theorem State.reportDamage_queue (h : Handle) (n : Nat) : (s.reportDamage h n).queue = s.queue :=
  rfl
@[simp] theorem State.reportDamage_delivering (h : Handle) (n : Nat) : (s.reportDamage h n).delivering = s.delivering :=
  rfl
@[simp] theorem State.reportDamage_encoder (h : Handle) (n : Nat) : (s.reportDamage h n).encoder = s.encoder :=
  rfl
@[simp] theorem State.reportDamage_pressChannel (h : Handle) (n : Nat) : (s.reportDamage h n).pressChannel = s.pressChannel :=
  rfl
@[simp] theorem State.reportDamage_proofChannel (h : Handle) (n : Nat) : (s.reportDamage h n).proofChannel = s.proofChannel :=
  rfl
@[simp] theorem State.reportDamage_delivery (h : Handle) (n : Nat) : (s.reportDamage h n).delivery = s.delivery :=
  rfl
@[simp] theorem State.reportDamage_view (h : Handle) (n : Nat) : (s.reportDamage h n).view = s.view :=
  rfl
@[simp] theorem State.reportDamage_sched (h : Handle) (n : Nat) : (s.reportDamage h n).sched = s.sched :=
  rfl
@[simp] theorem State.reportDamage_lastReading (h : Handle) (n : Nat) : (s.reportDamage h n).lastReading = s.lastReading :=
  rfl
@[simp] theorem State.reportDamage_thermal (h : Handle) (n : Nat) : (s.reportDamage h n).thermal = s.thermal :=
  rfl
@[simp] theorem State.reportDamage_mode (h : Handle) (n : Nat) : (s.reportDamage h n).mode = s.mode :=
  rfl
@[simp] theorem State.reportDamage_retained (h : Handle) (n : Nat) : (s.reportDamage h n).retained = s.retained :=
  rfl
@[simp] theorem State.reportDamage_pending (h : Handle) (n : Nat) : (s.reportDamage h n).pending = s.pending :=
  rfl

/-! ## `State.giveBack`: extents return -/

@[simp] theorem State.giveBack_compose (es : List Nat) : (s.giveBack es).compose = s.compose := rfl
@[simp] theorem State.giveBack_press (es : List Nat) : (s.giveBack es).press = s.press := rfl
@[simp] theorem State.giveBack_proof (es : List Nat) : (s.giveBack es).proof = s.proof := rfl
@[simp] theorem State.giveBack_pressLate (es : List Nat) : (s.giveBack es).pressLate = s.pressLate :=
  rfl
@[simp] theorem State.giveBack_proofLate (es : List Nat) : (s.giveBack es).proofLate = s.proofLate :=
  rfl
@[simp] theorem State.giveBack_pages (es : List Nat) : (s.giveBack es).pages = s.pages := rfl
@[simp] theorem State.giveBack_freeRecords (es : List Nat) : (s.giveBack es).freeRecords = s.freeRecords :=
  rfl
@[simp] theorem State.giveBack_store (es : List Nat) : (s.giveBack es).store = s.store := rfl
@[simp] theorem State.giveBack_undefinedDraws (es : List Nat) : (s.giveBack es).undefinedDraws = s.undefinedDraws :=
  rfl
@[simp] theorem State.giveBack_queue (es : List Nat) : (s.giveBack es).queue = s.queue := rfl
@[simp] theorem State.giveBack_delivering (es : List Nat) : (s.giveBack es).delivering = s.delivering :=
  rfl
@[simp] theorem State.giveBack_encoder (es : List Nat) : (s.giveBack es).encoder = s.encoder := rfl
@[simp] theorem State.giveBack_pressChannel (es : List Nat) : (s.giveBack es).pressChannel = s.pressChannel :=
  rfl
@[simp] theorem State.giveBack_proofChannel (es : List Nat) : (s.giveBack es).proofChannel = s.proofChannel :=
  rfl
@[simp] theorem State.giveBack_delivery (es : List Nat) : (s.giveBack es).delivery = s.delivery :=
  rfl
@[simp] theorem State.giveBack_view (es : List Nat) : (s.giveBack es).view = s.view := rfl
@[simp] theorem State.giveBack_sched (es : List Nat) : (s.giveBack es).sched = s.sched := rfl
@[simp] theorem State.giveBack_lastReading (es : List Nat) : (s.giveBack es).lastReading = s.lastReading :=
  rfl
@[simp] theorem State.giveBack_thermal (es : List Nat) : (s.giveBack es).thermal = s.thermal := rfl
@[simp] theorem State.giveBack_mode (es : List Nat) : (s.giveBack es).mode = s.mode := rfl
@[simp] theorem State.giveBack_retained (es : List Nat) : (s.giveBack es).retained = s.retained :=
  rfl
@[simp] theorem State.giveBack_pending (es : List Nat) : (s.giveBack es).pending = s.pending := rfl

/-! ## `State.freePage`: a record is freed -/

@[simp] theorem State.freePage_compose (h : Handle) : (s.freePage h).compose = s.compose := rfl
@[simp] theorem State.freePage_press (h : Handle) : (s.freePage h).press = s.press := rfl
@[simp] theorem State.freePage_proof (h : Handle) : (s.freePage h).proof = s.proof := rfl
@[simp] theorem State.freePage_pressLate (h : Handle) : (s.freePage h).pressLate = s.pressLate :=
  rfl
@[simp] theorem State.freePage_proofLate (h : Handle) : (s.freePage h).proofLate = s.proofLate :=
  rfl
@[simp] theorem State.freePage_store (h : Handle) : (s.freePage h).store = s.store := rfl
@[simp] theorem State.freePage_undefinedDraws (h : Handle) : (s.freePage h).undefinedDraws = s.undefinedDraws :=
  rfl
@[simp] theorem State.freePage_queue (h : Handle) : (s.freePage h).queue = s.queue := rfl
@[simp] theorem State.freePage_delivering (h : Handle) : (s.freePage h).delivering = s.delivering :=
  rfl
@[simp] theorem State.freePage_encoder (h : Handle) : (s.freePage h).encoder = s.encoder := rfl
@[simp] theorem State.freePage_pressChannel (h : Handle) : (s.freePage h).pressChannel = s.pressChannel :=
  rfl
@[simp] theorem State.freePage_proofChannel (h : Handle) : (s.freePage h).proofChannel = s.proofChannel :=
  rfl
@[simp] theorem State.freePage_delivery (h : Handle) : (s.freePage h).delivery = s.delivery := rfl
@[simp] theorem State.freePage_view (h : Handle) : (s.freePage h).view = s.view := rfl
@[simp] theorem State.freePage_sched (h : Handle) : (s.freePage h).sched = s.sched := rfl
@[simp] theorem State.freePage_lastReading (h : Handle) : (s.freePage h).lastReading = s.lastReading :=
  rfl
@[simp] theorem State.freePage_thermal (h : Handle) : (s.freePage h).thermal = s.thermal := rfl
@[simp] theorem State.freePage_mode (h : Handle) : (s.freePage h).mode = s.mode := rfl
@[simp] theorem State.freePage_retained (h : Handle) : (s.freePage h).retained = s.retained := rfl
@[simp] theorem State.freePage_pending (h : Handle) : (s.freePage h).pending = s.pending := rfl

/-! ## `State.dropRefs`: references end -/

@[simp] theorem State.dropRefs_compose (h : Handle) (n : Nat) : (s.dropRefs h n).compose = s.compose := by
  unfold State.dropRefs; dsimp only; split
  · rfl
  · split <;> rfl
@[simp] theorem State.dropRefs_press (h : Handle) (n : Nat) : (s.dropRefs h n).press = s.press := by
  unfold State.dropRefs; dsimp only; split
  · rfl
  · split <;> rfl
@[simp] theorem State.dropRefs_proof (h : Handle) (n : Nat) : (s.dropRefs h n).proof = s.proof := by
  unfold State.dropRefs; dsimp only; split
  · rfl
  · split <;> rfl
@[simp] theorem State.dropRefs_pressLate (h : Handle) (n : Nat) : (s.dropRefs h n).pressLate = s.pressLate := by
  unfold State.dropRefs; dsimp only; split
  · rfl
  · split <;> rfl
@[simp] theorem State.dropRefs_proofLate (h : Handle) (n : Nat) : (s.dropRefs h n).proofLate = s.proofLate := by
  unfold State.dropRefs; dsimp only; split
  · rfl
  · split <;> rfl
@[simp] theorem State.dropRefs_store (h : Handle) (n : Nat) : (s.dropRefs h n).store = s.store := by
  unfold State.dropRefs; dsimp only; split
  · rfl
  · split <;> rfl
@[simp] theorem State.dropRefs_undefinedDraws (h : Handle) (n : Nat) : (s.dropRefs h n).undefinedDraws = s.undefinedDraws := by
  unfold State.dropRefs; dsimp only; split
  · rfl
  · split <;> rfl
@[simp] theorem State.dropRefs_queue (h : Handle) (n : Nat) : (s.dropRefs h n).queue = s.queue := by
  unfold State.dropRefs; dsimp only; split
  · rfl
  · split <;> rfl
@[simp] theorem State.dropRefs_delivering (h : Handle) (n : Nat) : (s.dropRefs h n).delivering = s.delivering := by
  unfold State.dropRefs; dsimp only; split
  · rfl
  · split <;> rfl
@[simp] theorem State.dropRefs_encoder (h : Handle) (n : Nat) : (s.dropRefs h n).encoder = s.encoder := by
  unfold State.dropRefs; dsimp only; split
  · rfl
  · split <;> rfl
@[simp] theorem State.dropRefs_pressChannel (h : Handle) (n : Nat) : (s.dropRefs h n).pressChannel = s.pressChannel := by
  unfold State.dropRefs; dsimp only; split
  · rfl
  · split <;> rfl
@[simp] theorem State.dropRefs_proofChannel (h : Handle) (n : Nat) : (s.dropRefs h n).proofChannel = s.proofChannel := by
  unfold State.dropRefs; dsimp only; split
  · rfl
  · split <;> rfl
@[simp] theorem State.dropRefs_delivery (h : Handle) (n : Nat) : (s.dropRefs h n).delivery = s.delivery := by
  unfold State.dropRefs; dsimp only; split
  · rfl
  · split <;> rfl
@[simp] theorem State.dropRefs_view (h : Handle) (n : Nat) : (s.dropRefs h n).view = s.view := by
  unfold State.dropRefs; dsimp only; split
  · rfl
  · split <;> rfl
@[simp] theorem State.dropRefs_sched (h : Handle) (n : Nat) : (s.dropRefs h n).sched = s.sched := by
  unfold State.dropRefs; dsimp only; split
  · rfl
  · split <;> rfl
@[simp] theorem State.dropRefs_lastReading (h : Handle) (n : Nat) : (s.dropRefs h n).lastReading = s.lastReading := by
  unfold State.dropRefs; dsimp only; split
  · rfl
  · split <;> rfl
@[simp] theorem State.dropRefs_thermal (h : Handle) (n : Nat) : (s.dropRefs h n).thermal = s.thermal := by
  unfold State.dropRefs; dsimp only; split
  · rfl
  · split <;> rfl
@[simp] theorem State.dropRefs_mode (h : Handle) (n : Nat) : (s.dropRefs h n).mode = s.mode := by
  unfold State.dropRefs; dsimp only; split
  · rfl
  · split <;> rfl
@[simp] theorem State.dropRefs_retained (h : Handle) (n : Nat) : (s.dropRefs h n).retained = s.retained := by
  unfold State.dropRefs; dsimp only; split
  · rfl
  · split <;> rfl
@[simp] theorem State.dropRefs_pending (h : Handle) (n : Nat) : (s.dropRefs h n).pending = s.pending := by
  unfold State.dropRefs; dsimp only; split
  · rfl
  · split <;> rfl

/-! ## `State.updateSched`: the scheduler changes -/

@[simp] theorem State.updateSched_compose (f : Scheduler → Scheduler) : (s.updateSched f).compose = s.compose :=
  rfl
@[simp] theorem State.updateSched_press (f : Scheduler → Scheduler) : (s.updateSched f).press = s.press :=
  rfl
@[simp] theorem State.updateSched_proof (f : Scheduler → Scheduler) : (s.updateSched f).proof = s.proof :=
  rfl
@[simp] theorem State.updateSched_pressLate (f : Scheduler → Scheduler) : (s.updateSched f).pressLate = s.pressLate :=
  rfl
@[simp] theorem State.updateSched_proofLate (f : Scheduler → Scheduler) : (s.updateSched f).proofLate = s.proofLate :=
  rfl
@[simp] theorem State.updateSched_pages (f : Scheduler → Scheduler) : (s.updateSched f).pages = s.pages :=
  rfl
@[simp] theorem State.updateSched_freeRecords (f : Scheduler → Scheduler) : (s.updateSched f).freeRecords = s.freeRecords :=
  rfl
@[simp] theorem State.updateSched_freeSet (f : Scheduler → Scheduler) : (s.updateSched f).freeSet = s.freeSet :=
  rfl
@[simp] theorem State.updateSched_store (f : Scheduler → Scheduler) : (s.updateSched f).store = s.store :=
  rfl
@[simp] theorem State.updateSched_undefinedDraws (f : Scheduler → Scheduler) : (s.updateSched f).undefinedDraws = s.undefinedDraws :=
  rfl
@[simp] theorem State.updateSched_queue (f : Scheduler → Scheduler) : (s.updateSched f).queue = s.queue :=
  rfl
@[simp] theorem State.updateSched_delivering (f : Scheduler → Scheduler) : (s.updateSched f).delivering = s.delivering :=
  rfl
@[simp] theorem State.updateSched_encoder (f : Scheduler → Scheduler) : (s.updateSched f).encoder = s.encoder :=
  rfl
@[simp] theorem State.updateSched_pressChannel (f : Scheduler → Scheduler) : (s.updateSched f).pressChannel = s.pressChannel :=
  rfl
@[simp] theorem State.updateSched_proofChannel (f : Scheduler → Scheduler) : (s.updateSched f).proofChannel = s.proofChannel :=
  rfl
@[simp] theorem State.updateSched_delivery (f : Scheduler → Scheduler) : (s.updateSched f).delivery = s.delivery :=
  rfl
@[simp] theorem State.updateSched_view (f : Scheduler → Scheduler) : (s.updateSched f).view = s.view :=
  rfl
@[simp] theorem State.updateSched_lastReading (f : Scheduler → Scheduler) : (s.updateSched f).lastReading = s.lastReading :=
  rfl
@[simp] theorem State.updateSched_thermal (f : Scheduler → Scheduler) : (s.updateSched f).thermal = s.thermal :=
  rfl
@[simp] theorem State.updateSched_mode (f : Scheduler → Scheduler) : (s.updateSched f).mode = s.mode :=
  rfl
@[simp] theorem State.updateSched_retained (f : Scheduler → Scheduler) : (s.updateSched f).retained = s.retained :=
  rfl
@[simp] theorem State.updateSched_pending (f : Scheduler → Scheduler) : (s.updateSched f).pending = s.pending :=
  rfl

/-! ## `State.grantNext`: the scheduler makes its next grant -/

@[simp] theorem State.grantNext_compose : (s.grantNext).compose = s.compose := rfl
@[simp] theorem State.grantNext_press : (s.grantNext).press = s.press := rfl
@[simp] theorem State.grantNext_proof : (s.grantNext).proof = s.proof := rfl
@[simp] theorem State.grantNext_pressLate : (s.grantNext).pressLate = s.pressLate := rfl
@[simp] theorem State.grantNext_proofLate : (s.grantNext).proofLate = s.proofLate := rfl
@[simp] theorem State.grantNext_pages : (s.grantNext).pages = s.pages := rfl
@[simp] theorem State.grantNext_freeRecords : (s.grantNext).freeRecords = s.freeRecords := rfl
@[simp] theorem State.grantNext_freeSet : (s.grantNext).freeSet = s.freeSet := rfl
@[simp] theorem State.grantNext_store : (s.grantNext).store = s.store := rfl
@[simp] theorem State.grantNext_undefinedDraws : (s.grantNext).undefinedDraws = s.undefinedDraws :=
  rfl
@[simp] theorem State.grantNext_queue : (s.grantNext).queue = s.queue := rfl
@[simp] theorem State.grantNext_delivering : (s.grantNext).delivering = s.delivering := rfl
@[simp] theorem State.grantNext_encoder : (s.grantNext).encoder = s.encoder := rfl
@[simp] theorem State.grantNext_pressChannel : (s.grantNext).pressChannel = s.pressChannel := rfl
@[simp] theorem State.grantNext_proofChannel : (s.grantNext).proofChannel = s.proofChannel := rfl
@[simp] theorem State.grantNext_delivery : (s.grantNext).delivery = s.delivery := rfl
@[simp] theorem State.grantNext_view : (s.grantNext).view = s.view := rfl
@[simp] theorem State.grantNext_lastReading : (s.grantNext).lastReading = s.lastReading := rfl
@[simp] theorem State.grantNext_thermal : (s.grantNext).thermal = s.thermal := rfl
@[simp] theorem State.grantNext_mode : (s.grantNext).mode = s.mode := rfl
@[simp] theorem State.grantNext_retained : (s.grantNext).retained = s.retained := rfl
@[simp] theorem State.grantNext_pending : (s.grantNext).pending = s.pending := rfl

/-! ## `State.losePages`: pages are lost -/

@[simp] theorem State.losePages_compose (l : List Nat) : (s.losePages l).compose = s.compose := rfl
@[simp] theorem State.losePages_press (l : List Nat) : (s.losePages l).press = s.press := rfl
@[simp] theorem State.losePages_proof (l : List Nat) : (s.losePages l).proof = s.proof := rfl
@[simp] theorem State.losePages_pressLate (l : List Nat) : (s.losePages l).pressLate = s.pressLate :=
  rfl
@[simp] theorem State.losePages_proofLate (l : List Nat) : (s.losePages l).proofLate = s.proofLate :=
  rfl
@[simp] theorem State.losePages_freeRecords (l : List Nat) : (s.losePages l).freeRecords = s.freeRecords :=
  rfl
@[simp] theorem State.losePages_store (l : List Nat) : (s.losePages l).store = s.store := rfl
@[simp] theorem State.losePages_undefinedDraws (l : List Nat) : (s.losePages l).undefinedDraws = s.undefinedDraws :=
  rfl
@[simp] theorem State.losePages_queue (l : List Nat) : (s.losePages l).queue = s.queue := rfl
@[simp] theorem State.losePages_delivering (l : List Nat) : (s.losePages l).delivering = s.delivering :=
  rfl
@[simp] theorem State.losePages_encoder (l : List Nat) : (s.losePages l).encoder = s.encoder := rfl
@[simp] theorem State.losePages_pressChannel (l : List Nat) : (s.losePages l).pressChannel = s.pressChannel :=
  rfl
@[simp] theorem State.losePages_proofChannel (l : List Nat) : (s.losePages l).proofChannel = s.proofChannel :=
  rfl
@[simp] theorem State.losePages_delivery (l : List Nat) : (s.losePages l).delivery = s.delivery :=
  rfl
@[simp] theorem State.losePages_view (l : List Nat) : (s.losePages l).view = s.view := rfl
@[simp] theorem State.losePages_sched (l : List Nat) : (s.losePages l).sched = s.sched := rfl
@[simp] theorem State.losePages_lastReading (l : List Nat) : (s.losePages l).lastReading = s.lastReading :=
  rfl
@[simp] theorem State.losePages_thermal (l : List Nat) : (s.losePages l).thermal = s.thermal := rfl
@[simp] theorem State.losePages_mode (l : List Nat) : (s.losePages l).mode = s.mode := rfl
@[simp] theorem State.losePages_retained (l : List Nat) : (s.losePages l).retained = s.retained :=
  rfl
@[simp] theorem State.losePages_pending (l : List Nat) : (s.losePages l).pending = s.pending := rfl

/-! ## `State.completeRest`: rest entry completes -/

@[simp] theorem State.completeRest_compose : (s.completeRest).compose = s.compose := rfl
@[simp] theorem State.completeRest_press : (s.completeRest).press = s.press := rfl
@[simp] theorem State.completeRest_proof : (s.completeRest).proof = s.proof := rfl
@[simp] theorem State.completeRest_pressLate : (s.completeRest).pressLate = s.pressLate := rfl
@[simp] theorem State.completeRest_proofLate : (s.completeRest).proofLate = s.proofLate := rfl
@[simp] theorem State.completeRest_freeRecords : (s.completeRest).freeRecords = s.freeRecords :=
  rfl
@[simp] theorem State.completeRest_queue : (s.completeRest).queue = s.queue := rfl
@[simp] theorem State.completeRest_delivering : (s.completeRest).delivering = s.delivering := rfl
@[simp] theorem State.completeRest_encoder : (s.completeRest).encoder = s.encoder := rfl
@[simp] theorem State.completeRest_pressChannel : (s.completeRest).pressChannel = s.pressChannel :=
  rfl
@[simp] theorem State.completeRest_proofChannel : (s.completeRest).proofChannel = s.proofChannel :=
  rfl
@[simp] theorem State.completeRest_delivery : (s.completeRest).delivery = s.delivery := rfl
@[simp] theorem State.completeRest_view : (s.completeRest).view = s.view := rfl
@[simp] theorem State.completeRest_lastReading : (s.completeRest).lastReading = s.lastReading :=
  rfl
@[simp] theorem State.completeRest_thermal : (s.completeRest).thermal = s.thermal := rfl
@[simp] theorem State.completeRest_pending : (s.completeRest).pending = s.pending := rfl

/-! ## `State.checkDrain`: the drain is judged -/

@[simp] theorem State.checkDrain_compose : (s.checkDrain).compose = s.compose :=
  by unfold State.checkDrain; split <;> rfl
@[simp] theorem State.checkDrain_press : (s.checkDrain).press = s.press :=
  by unfold State.checkDrain; split <;> rfl
@[simp] theorem State.checkDrain_proof : (s.checkDrain).proof = s.proof :=
  by unfold State.checkDrain; split <;> rfl
@[simp] theorem State.checkDrain_pressLate : (s.checkDrain).pressLate = s.pressLate :=
  by unfold State.checkDrain; split <;> rfl
@[simp] theorem State.checkDrain_proofLate : (s.checkDrain).proofLate = s.proofLate :=
  by unfold State.checkDrain; split <;> rfl
@[simp] theorem State.checkDrain_freeRecords : (s.checkDrain).freeRecords = s.freeRecords :=
  by unfold State.checkDrain; split <;> rfl
@[simp] theorem State.checkDrain_queue : (s.checkDrain).queue = s.queue :=
  by unfold State.checkDrain; split <;> rfl
@[simp] theorem State.checkDrain_delivering : (s.checkDrain).delivering = s.delivering :=
  by unfold State.checkDrain; split <;> rfl
@[simp] theorem State.checkDrain_encoder : (s.checkDrain).encoder = s.encoder :=
  by unfold State.checkDrain; split <;> rfl
@[simp] theorem State.checkDrain_pressChannel : (s.checkDrain).pressChannel = s.pressChannel :=
  by unfold State.checkDrain; split <;> rfl
@[simp] theorem State.checkDrain_proofChannel : (s.checkDrain).proofChannel = s.proofChannel :=
  by unfold State.checkDrain; split <;> rfl
@[simp] theorem State.checkDrain_delivery : (s.checkDrain).delivery = s.delivery :=
  by unfold State.checkDrain; split <;> rfl
@[simp] theorem State.checkDrain_view : (s.checkDrain).view = s.view :=
  by unfold State.checkDrain; split <;> rfl
@[simp] theorem State.checkDrain_lastReading : (s.checkDrain).lastReading = s.lastReading :=
  by unfold State.checkDrain; split <;> rfl
@[simp] theorem State.checkDrain_thermal : (s.checkDrain).thermal = s.thermal :=
  by unfold State.checkDrain; split <;> rfl
@[simp] theorem State.checkDrain_pending : (s.checkDrain).pending = s.pending :=
  by unfold State.checkDrain; split <;> rfl

/-! ## `State.settle`: the scheduler grants and the drain is judged -/

@[simp] theorem State.settle_compose : (s.settle).compose = s.compose := by
  unfold State.settle State.checkDrain; split <;> rfl
@[simp] theorem State.settle_press : (s.settle).press = s.press := by
  unfold State.settle State.checkDrain; split <;> rfl
@[simp] theorem State.settle_proof : (s.settle).proof = s.proof := by
  unfold State.settle State.checkDrain; split <;> rfl
@[simp] theorem State.settle_pressLate : (s.settle).pressLate = s.pressLate := by
  unfold State.settle State.checkDrain; split <;> rfl
@[simp] theorem State.settle_proofLate : (s.settle).proofLate = s.proofLate := by
  unfold State.settle State.checkDrain; split <;> rfl
@[simp] theorem State.settle_freeRecords : (s.settle).freeRecords = s.freeRecords := by
  unfold State.settle State.checkDrain; split <;> rfl
@[simp] theorem State.settle_queue : (s.settle).queue = s.queue := by
  unfold State.settle State.checkDrain; split <;> rfl
@[simp] theorem State.settle_delivering : (s.settle).delivering = s.delivering := by
  unfold State.settle State.checkDrain; split <;> rfl
@[simp] theorem State.settle_encoder : (s.settle).encoder = s.encoder := by
  unfold State.settle State.checkDrain; split <;> rfl
@[simp] theorem State.settle_pressChannel : (s.settle).pressChannel = s.pressChannel := by
  unfold State.settle State.checkDrain; split <;> rfl
@[simp] theorem State.settle_proofChannel : (s.settle).proofChannel = s.proofChannel := by
  unfold State.settle State.checkDrain; split <;> rfl
@[simp] theorem State.settle_delivery : (s.settle).delivery = s.delivery := by
  unfold State.settle State.checkDrain; split <;> rfl
@[simp] theorem State.settle_view : (s.settle).view = s.view := by
  unfold State.settle State.checkDrain; split <;> rfl
@[simp] theorem State.settle_lastReading : (s.settle).lastReading = s.lastReading := by
  unfold State.settle State.checkDrain; split <;> rfl
@[simp] theorem State.settle_thermal : (s.settle).thermal = s.thermal := by
  unfold State.settle State.checkDrain; split <;> rfl
@[simp] theorem State.settle_pending : (s.settle).pending = s.pending := by
  unfold State.settle State.checkDrain; split <;> rfl

/-! ## `State.judgeRest`: rest is judged -/

@[simp] theorem State.judgeRest_compose : (s.judgeRest).compose = s.compose := by
  unfold State.judgeRest State.checkDrain; split
  · split <;> rfl
  · rfl
@[simp] theorem State.judgeRest_press : (s.judgeRest).press = s.press := by
  unfold State.judgeRest State.checkDrain; split
  · split <;> rfl
  · rfl
@[simp] theorem State.judgeRest_proof : (s.judgeRest).proof = s.proof := by
  unfold State.judgeRest State.checkDrain; split
  · split <;> rfl
  · rfl
@[simp] theorem State.judgeRest_pressLate : (s.judgeRest).pressLate = s.pressLate := by
  unfold State.judgeRest State.checkDrain; split
  · split <;> rfl
  · rfl
@[simp] theorem State.judgeRest_proofLate : (s.judgeRest).proofLate = s.proofLate := by
  unfold State.judgeRest State.checkDrain; split
  · split <;> rfl
  · rfl
@[simp] theorem State.judgeRest_freeRecords : (s.judgeRest).freeRecords = s.freeRecords := by
  unfold State.judgeRest State.checkDrain; split
  · split <;> rfl
  · rfl
@[simp] theorem State.judgeRest_queue : (s.judgeRest).queue = s.queue := by
  unfold State.judgeRest State.checkDrain; split
  · split <;> rfl
  · rfl
@[simp] theorem State.judgeRest_delivering : (s.judgeRest).delivering = s.delivering := by
  unfold State.judgeRest State.checkDrain; split
  · split <;> rfl
  · rfl
@[simp] theorem State.judgeRest_encoder : (s.judgeRest).encoder = s.encoder := by
  unfold State.judgeRest State.checkDrain; split
  · split <;> rfl
  · rfl
@[simp] theorem State.judgeRest_pressChannel : (s.judgeRest).pressChannel = s.pressChannel := by
  unfold State.judgeRest State.checkDrain; split
  · split <;> rfl
  · rfl
@[simp] theorem State.judgeRest_proofChannel : (s.judgeRest).proofChannel = s.proofChannel := by
  unfold State.judgeRest State.checkDrain; split
  · split <;> rfl
  · rfl
@[simp] theorem State.judgeRest_delivery : (s.judgeRest).delivery = s.delivery := by
  unfold State.judgeRest State.checkDrain; split
  · split <;> rfl
  · rfl
@[simp] theorem State.judgeRest_view : (s.judgeRest).view = s.view := by
  unfold State.judgeRest State.checkDrain; split
  · split <;> rfl
  · rfl
@[simp] theorem State.judgeRest_lastReading : (s.judgeRest).lastReading = s.lastReading := by
  unfold State.judgeRest State.checkDrain; split
  · split <;> rfl
  · rfl
@[simp] theorem State.judgeRest_thermal : (s.judgeRest).thermal = s.thermal := by
  unfold State.judgeRest State.checkDrain; split
  · split <;> rfl
  · rfl
@[simp] theorem State.judgeRest_pending : (s.judgeRest).pending = s.pending := by
  unfold State.judgeRest State.checkDrain; split
  · split <;> rfl
  · rfl

/-! ## `State.wakeStore`: the store wakes -/

@[simp] theorem State.wakeStore_compose : (s.wakeStore).compose = s.compose :=
  by unfold State.wakeStore; split <;> rfl
@[simp] theorem State.wakeStore_press : (s.wakeStore).press = s.press :=
  by unfold State.wakeStore; split <;> rfl
@[simp] theorem State.wakeStore_proof : (s.wakeStore).proof = s.proof :=
  by unfold State.wakeStore; split <;> rfl
@[simp] theorem State.wakeStore_pressLate : (s.wakeStore).pressLate = s.pressLate :=
  by unfold State.wakeStore; split <;> rfl
@[simp] theorem State.wakeStore_proofLate : (s.wakeStore).proofLate = s.proofLate :=
  by unfold State.wakeStore; split <;> rfl
@[simp] theorem State.wakeStore_pages : (s.wakeStore).pages = s.pages :=
  by unfold State.wakeStore; split <;> rfl
@[simp] theorem State.wakeStore_freeRecords : (s.wakeStore).freeRecords = s.freeRecords :=
  by unfold State.wakeStore; split <;> rfl
@[simp] theorem State.wakeStore_freeSet : (s.wakeStore).freeSet = s.freeSet :=
  by unfold State.wakeStore; split <;> rfl
@[simp] theorem State.wakeStore_store : (s.wakeStore).store = s.store :=
  by unfold State.wakeStore; split <;> rfl
@[simp] theorem State.wakeStore_undefinedDraws : (s.wakeStore).undefinedDraws = s.undefinedDraws :=
  by unfold State.wakeStore; split <;> rfl
@[simp] theorem State.wakeStore_queue : (s.wakeStore).queue = s.queue :=
  by unfold State.wakeStore; split <;> rfl
@[simp] theorem State.wakeStore_delivering : (s.wakeStore).delivering = s.delivering :=
  by unfold State.wakeStore; split <;> rfl
@[simp] theorem State.wakeStore_encoder : (s.wakeStore).encoder = s.encoder :=
  by unfold State.wakeStore; split <;> rfl
@[simp] theorem State.wakeStore_pressChannel : (s.wakeStore).pressChannel = s.pressChannel :=
  by unfold State.wakeStore; split <;> rfl
@[simp] theorem State.wakeStore_proofChannel : (s.wakeStore).proofChannel = s.proofChannel :=
  by unfold State.wakeStore; split <;> rfl
@[simp] theorem State.wakeStore_delivery : (s.wakeStore).delivery = s.delivery :=
  by unfold State.wakeStore; split <;> rfl
@[simp] theorem State.wakeStore_view : (s.wakeStore).view = s.view :=
  by unfold State.wakeStore; split <;> rfl
@[simp] theorem State.wakeStore_lastReading : (s.wakeStore).lastReading = s.lastReading :=
  by unfold State.wakeStore; split <;> rfl
@[simp] theorem State.wakeStore_thermal : (s.wakeStore).thermal = s.thermal :=
  by unfold State.wakeStore; split <;> rfl
@[simp] theorem State.wakeStore_pending : (s.wakeStore).pending = s.pending :=
  by unfold State.wakeStore; split <;> rfl

/-! ## `State.removeHead`: the head leaves -/

@[simp] theorem State.removeHead_compose : (s.removeHead).compose = s.compose :=
  by unfold State.removeHead; split <;> simp
@[simp] theorem State.removeHead_press : (s.removeHead).press = s.press :=
  by unfold State.removeHead; split <;> simp
@[simp] theorem State.removeHead_proof : (s.removeHead).proof = s.proof :=
  by unfold State.removeHead; split <;> simp
@[simp] theorem State.removeHead_pressLate : (s.removeHead).pressLate = s.pressLate :=
  by unfold State.removeHead; split <;> simp
@[simp] theorem State.removeHead_proofLate : (s.removeHead).proofLate = s.proofLate :=
  by unfold State.removeHead; split <;> simp
@[simp] theorem State.removeHead_store : (s.removeHead).store = s.store :=
  by unfold State.removeHead; split <;> simp
@[simp] theorem State.removeHead_undefinedDraws : (s.removeHead).undefinedDraws = s.undefinedDraws :=
  by unfold State.removeHead; split <;> simp
@[simp] theorem State.removeHead_delivering : (s.removeHead).delivering = s.delivering :=
  by unfold State.removeHead; split <;> simp
@[simp] theorem State.removeHead_encoder : (s.removeHead).encoder = s.encoder :=
  by unfold State.removeHead; split <;> simp
@[simp] theorem State.removeHead_pressChannel : (s.removeHead).pressChannel = s.pressChannel :=
  by unfold State.removeHead; split <;> simp
@[simp] theorem State.removeHead_proofChannel : (s.removeHead).proofChannel = s.proofChannel :=
  by unfold State.removeHead; split <;> simp
@[simp] theorem State.removeHead_delivery : (s.removeHead).delivery = s.delivery :=
  by unfold State.removeHead; split <;> simp
@[simp] theorem State.removeHead_view : (s.removeHead).view = s.view :=
  by unfold State.removeHead; split <;> simp
@[simp] theorem State.removeHead_sched : (s.removeHead).sched = s.sched :=
  by unfold State.removeHead; split <;> simp
@[simp] theorem State.removeHead_lastReading : (s.removeHead).lastReading = s.lastReading :=
  by unfold State.removeHead; split <;> simp
@[simp] theorem State.removeHead_thermal : (s.removeHead).thermal = s.thermal :=
  by unfold State.removeHead; split <;> simp
@[simp] theorem State.removeHead_mode : (s.removeHead).mode = s.mode :=
  by unfold State.removeHead; split <;> simp
@[simp] theorem State.removeHead_retained : (s.removeHead).retained = s.retained :=
  by unfold State.removeHead; split <;> simp
@[simp] theorem State.removeHead_pending : (s.removeHead).pending = s.pending :=
  by unfold State.removeHead; split <;> simp

/-! ## `State.presentWrite`: the encoder presents a write -/

@[simp] theorem State.presentWrite_compose : (s.presentWrite).compose = s.compose := by
  unfold State.presentWrite; repeat' split
  all_goals rfl
@[simp] theorem State.presentWrite_press : (s.presentWrite).press = s.press := by
  unfold State.presentWrite; repeat' split
  all_goals rfl
@[simp] theorem State.presentWrite_proof : (s.presentWrite).proof = s.proof := by
  unfold State.presentWrite; repeat' split
  all_goals rfl
@[simp] theorem State.presentWrite_pressLate : (s.presentWrite).pressLate = s.pressLate := by
  unfold State.presentWrite; repeat' split
  all_goals rfl
@[simp] theorem State.presentWrite_proofLate : (s.presentWrite).proofLate = s.proofLate := by
  unfold State.presentWrite; repeat' split
  all_goals rfl
@[simp] theorem State.presentWrite_pages : (s.presentWrite).pages = s.pages := by
  unfold State.presentWrite; repeat' split
  all_goals rfl
@[simp] theorem State.presentWrite_freeRecords : (s.presentWrite).freeRecords = s.freeRecords := by
  unfold State.presentWrite; repeat' split
  all_goals rfl
@[simp] theorem State.presentWrite_freeSet : (s.presentWrite).freeSet = s.freeSet := by
  unfold State.presentWrite; repeat' split
  all_goals rfl
@[simp] theorem State.presentWrite_store : (s.presentWrite).store = s.store := by
  unfold State.presentWrite; repeat' split
  all_goals rfl
@[simp] theorem State.presentWrite_undefinedDraws : (s.presentWrite).undefinedDraws = s.undefinedDraws := by
  unfold State.presentWrite; repeat' split
  all_goals rfl
@[simp] theorem State.presentWrite_queue : (s.presentWrite).queue = s.queue := by
  unfold State.presentWrite; repeat' split
  all_goals rfl
@[simp] theorem State.presentWrite_delivering : (s.presentWrite).delivering = s.delivering := by
  unfold State.presentWrite; repeat' split
  all_goals rfl
@[simp] theorem State.presentWrite_encoder : (s.presentWrite).encoder = s.encoder := by
  unfold State.presentWrite; repeat' split
  all_goals rfl
@[simp] theorem State.presentWrite_pressChannel : (s.presentWrite).pressChannel = s.pressChannel := by
  unfold State.presentWrite; repeat' split
  all_goals rfl
@[simp] theorem State.presentWrite_proofChannel : (s.presentWrite).proofChannel = s.proofChannel := by
  unfold State.presentWrite; repeat' split
  all_goals rfl
@[simp] theorem State.presentWrite_delivery : (s.presentWrite).delivery = s.delivery := by
  unfold State.presentWrite; repeat' split
  all_goals rfl
@[simp] theorem State.presentWrite_view : (s.presentWrite).view = s.view := by
  unfold State.presentWrite; repeat' split
  all_goals rfl
@[simp] theorem State.presentWrite_lastReading : (s.presentWrite).lastReading = s.lastReading := by
  unfold State.presentWrite; repeat' split
  all_goals rfl
@[simp] theorem State.presentWrite_thermal : (s.presentWrite).thermal = s.thermal := by
  unfold State.presentWrite; repeat' split
  all_goals rfl
@[simp] theorem State.presentWrite_mode : (s.presentWrite).mode = s.mode := by
  unfold State.presentWrite; repeat' split
  all_goals rfl
@[simp] theorem State.presentWrite_retained : (s.presentWrite).retained = s.retained := by
  unfold State.presentWrite; repeat' split
  all_goals rfl
@[simp] theorem State.presentWrite_pending : (s.presentWrite).pending = s.pending := by
  unfold State.presentWrite; repeat' split
  all_goals rfl

/-! ## `State.presentPress`: the press channel presents a read -/

@[simp] theorem State.presentPress_compose : (s.presentPress).compose = s.compose := by
  unfold State.presentPress; repeat' split
  all_goals rfl
@[simp] theorem State.presentPress_press : (s.presentPress).press = s.press := by
  unfold State.presentPress; repeat' split
  all_goals rfl
@[simp] theorem State.presentPress_proof : (s.presentPress).proof = s.proof := by
  unfold State.presentPress; repeat' split
  all_goals rfl
@[simp] theorem State.presentPress_pressLate : (s.presentPress).pressLate = s.pressLate := by
  unfold State.presentPress; repeat' split
  all_goals rfl
@[simp] theorem State.presentPress_proofLate : (s.presentPress).proofLate = s.proofLate := by
  unfold State.presentPress; repeat' split
  all_goals rfl
@[simp] theorem State.presentPress_pages : (s.presentPress).pages = s.pages := by
  unfold State.presentPress; repeat' split
  all_goals rfl
@[simp] theorem State.presentPress_freeRecords : (s.presentPress).freeRecords = s.freeRecords := by
  unfold State.presentPress; repeat' split
  all_goals rfl
@[simp] theorem State.presentPress_freeSet : (s.presentPress).freeSet = s.freeSet := by
  unfold State.presentPress; repeat' split
  all_goals rfl
@[simp] theorem State.presentPress_store : (s.presentPress).store = s.store := by
  unfold State.presentPress; repeat' split
  all_goals rfl
@[simp] theorem State.presentPress_undefinedDraws : (s.presentPress).undefinedDraws = s.undefinedDraws := by
  unfold State.presentPress; repeat' split
  all_goals rfl
@[simp] theorem State.presentPress_queue : (s.presentPress).queue = s.queue := by
  unfold State.presentPress; repeat' split
  all_goals rfl
@[simp] theorem State.presentPress_delivering : (s.presentPress).delivering = s.delivering := by
  unfold State.presentPress; repeat' split
  all_goals rfl
@[simp] theorem State.presentPress_encoder : (s.presentPress).encoder = s.encoder := by
  unfold State.presentPress; repeat' split
  all_goals rfl
@[simp] theorem State.presentPress_pressChannel : (s.presentPress).pressChannel = s.pressChannel := by
  unfold State.presentPress; repeat' split
  all_goals rfl
@[simp] theorem State.presentPress_proofChannel : (s.presentPress).proofChannel = s.proofChannel := by
  unfold State.presentPress; repeat' split
  all_goals rfl
@[simp] theorem State.presentPress_delivery : (s.presentPress).delivery = s.delivery := by
  unfold State.presentPress; repeat' split
  all_goals rfl
@[simp] theorem State.presentPress_view : (s.presentPress).view = s.view := by
  unfold State.presentPress; repeat' split
  all_goals rfl
@[simp] theorem State.presentPress_lastReading : (s.presentPress).lastReading = s.lastReading := by
  unfold State.presentPress; repeat' split
  all_goals rfl
@[simp] theorem State.presentPress_thermal : (s.presentPress).thermal = s.thermal := by
  unfold State.presentPress; repeat' split
  all_goals rfl
@[simp] theorem State.presentPress_mode : (s.presentPress).mode = s.mode := by
  unfold State.presentPress; repeat' split
  all_goals rfl
@[simp] theorem State.presentPress_retained : (s.presentPress).retained = s.retained := by
  unfold State.presentPress; repeat' split
  all_goals rfl
@[simp] theorem State.presentPress_pending : (s.presentPress).pending = s.pending := by
  unfold State.presentPress; repeat' split
  all_goals rfl

/-! ## `State.presentProof`: the proof channel presents a read -/

@[simp] theorem State.presentProof_compose : (s.presentProof).compose = s.compose := by
  unfold State.presentProof; repeat' split
  all_goals rfl
@[simp] theorem State.presentProof_press : (s.presentProof).press = s.press := by
  unfold State.presentProof; repeat' split
  all_goals rfl
@[simp] theorem State.presentProof_proof : (s.presentProof).proof = s.proof := by
  unfold State.presentProof; repeat' split
  all_goals rfl
@[simp] theorem State.presentProof_pressLate : (s.presentProof).pressLate = s.pressLate := by
  unfold State.presentProof; repeat' split
  all_goals rfl
@[simp] theorem State.presentProof_proofLate : (s.presentProof).proofLate = s.proofLate := by
  unfold State.presentProof; repeat' split
  all_goals rfl
@[simp] theorem State.presentProof_pages : (s.presentProof).pages = s.pages := by
  unfold State.presentProof; repeat' split
  all_goals rfl
@[simp] theorem State.presentProof_freeRecords : (s.presentProof).freeRecords = s.freeRecords := by
  unfold State.presentProof; repeat' split
  all_goals rfl
@[simp] theorem State.presentProof_freeSet : (s.presentProof).freeSet = s.freeSet := by
  unfold State.presentProof; repeat' split
  all_goals rfl
@[simp] theorem State.presentProof_store : (s.presentProof).store = s.store := by
  unfold State.presentProof; repeat' split
  all_goals rfl
@[simp] theorem State.presentProof_undefinedDraws : (s.presentProof).undefinedDraws = s.undefinedDraws := by
  unfold State.presentProof; repeat' split
  all_goals rfl
@[simp] theorem State.presentProof_queue : (s.presentProof).queue = s.queue := by
  unfold State.presentProof; repeat' split
  all_goals rfl
@[simp] theorem State.presentProof_delivering : (s.presentProof).delivering = s.delivering := by
  unfold State.presentProof; repeat' split
  all_goals rfl
@[simp] theorem State.presentProof_encoder : (s.presentProof).encoder = s.encoder := by
  unfold State.presentProof; repeat' split
  all_goals rfl
@[simp] theorem State.presentProof_pressChannel : (s.presentProof).pressChannel = s.pressChannel := by
  unfold State.presentProof; repeat' split
  all_goals rfl
@[simp] theorem State.presentProof_proofChannel : (s.presentProof).proofChannel = s.proofChannel := by
  unfold State.presentProof; repeat' split
  all_goals rfl
@[simp] theorem State.presentProof_delivery : (s.presentProof).delivery = s.delivery := by
  unfold State.presentProof; repeat' split
  all_goals rfl
@[simp] theorem State.presentProof_view : (s.presentProof).view = s.view := by
  unfold State.presentProof; repeat' split
  all_goals rfl
@[simp] theorem State.presentProof_lastReading : (s.presentProof).lastReading = s.lastReading := by
  unfold State.presentProof; repeat' split
  all_goals rfl
@[simp] theorem State.presentProof_thermal : (s.presentProof).thermal = s.thermal := by
  unfold State.presentProof; repeat' split
  all_goals rfl
@[simp] theorem State.presentProof_mode : (s.presentProof).mode = s.mode := by
  unfold State.presentProof; repeat' split
  all_goals rfl
@[simp] theorem State.presentProof_retained : (s.presentProof).retained = s.retained := by
  unfold State.presentProof; repeat' split
  all_goals rfl
@[simp] theorem State.presentProof_pending : (s.presentProof).pending = s.pending := by
  unfold State.presentProof; repeat' split
  all_goals rfl

/-! ## `State.idlePress`: the press channel goes IDLE -/

@[simp] theorem State.idlePress_compose : (s.idlePress).compose = s.compose := rfl
@[simp] theorem State.idlePress_press : (s.idlePress).press = s.press := rfl
@[simp] theorem State.idlePress_proof : (s.idlePress).proof = s.proof := rfl
@[simp] theorem State.idlePress_pressLate : (s.idlePress).pressLate = s.pressLate := rfl
@[simp] theorem State.idlePress_proofLate : (s.idlePress).proofLate = s.proofLate := rfl
@[simp] theorem State.idlePress_pages : (s.idlePress).pages = s.pages := rfl
@[simp] theorem State.idlePress_freeRecords : (s.idlePress).freeRecords = s.freeRecords := rfl
@[simp] theorem State.idlePress_freeSet : (s.idlePress).freeSet = s.freeSet := rfl
@[simp] theorem State.idlePress_store : (s.idlePress).store = s.store := rfl
@[simp] theorem State.idlePress_undefinedDraws : (s.idlePress).undefinedDraws = s.undefinedDraws :=
  rfl
@[simp] theorem State.idlePress_queue : (s.idlePress).queue = s.queue := rfl
@[simp] theorem State.idlePress_delivering : (s.idlePress).delivering = s.delivering := rfl
@[simp] theorem State.idlePress_encoder : (s.idlePress).encoder = s.encoder := rfl
@[simp] theorem State.idlePress_proofChannel : (s.idlePress).proofChannel = s.proofChannel := rfl
@[simp] theorem State.idlePress_delivery : (s.idlePress).delivery = s.delivery := rfl
@[simp] theorem State.idlePress_view : (s.idlePress).view = s.view := rfl
@[simp] theorem State.idlePress_lastReading : (s.idlePress).lastReading = s.lastReading := rfl
@[simp] theorem State.idlePress_thermal : (s.idlePress).thermal = s.thermal := rfl
@[simp] theorem State.idlePress_mode : (s.idlePress).mode = s.mode := rfl
@[simp] theorem State.idlePress_retained : (s.idlePress).retained = s.retained := rfl
@[simp] theorem State.idlePress_pending : (s.idlePress).pending = s.pending := rfl

/-! ## `State.idleProof`: the proof channel goes IDLE -/

@[simp] theorem State.idleProof_compose : (s.idleProof).compose = s.compose := rfl
@[simp] theorem State.idleProof_press : (s.idleProof).press = s.press := rfl
@[simp] theorem State.idleProof_proof : (s.idleProof).proof = s.proof := rfl
@[simp] theorem State.idleProof_pressLate : (s.idleProof).pressLate = s.pressLate := rfl
@[simp] theorem State.idleProof_proofLate : (s.idleProof).proofLate = s.proofLate := rfl
@[simp] theorem State.idleProof_pages : (s.idleProof).pages = s.pages := rfl
@[simp] theorem State.idleProof_freeRecords : (s.idleProof).freeRecords = s.freeRecords := rfl
@[simp] theorem State.idleProof_freeSet : (s.idleProof).freeSet = s.freeSet := rfl
@[simp] theorem State.idleProof_store : (s.idleProof).store = s.store := rfl
@[simp] theorem State.idleProof_undefinedDraws : (s.idleProof).undefinedDraws = s.undefinedDraws :=
  rfl
@[simp] theorem State.idleProof_queue : (s.idleProof).queue = s.queue := rfl
@[simp] theorem State.idleProof_delivering : (s.idleProof).delivering = s.delivering := rfl
@[simp] theorem State.idleProof_encoder : (s.idleProof).encoder = s.encoder := rfl
@[simp] theorem State.idleProof_pressChannel : (s.idleProof).pressChannel = s.pressChannel := rfl
@[simp] theorem State.idleProof_delivery : (s.idleProof).delivery = s.delivery := rfl
@[simp] theorem State.idleProof_view : (s.idleProof).view = s.view := rfl
@[simp] theorem State.idleProof_lastReading : (s.idleProof).lastReading = s.lastReading := rfl
@[simp] theorem State.idleProof_thermal : (s.idleProof).thermal = s.thermal := rfl
@[simp] theorem State.idleProof_mode : (s.idleProof).mode = s.mode := rfl
@[simp] theorem State.idleProof_retained : (s.idleProof).retained = s.retained := rfl
@[simp] theorem State.idleProof_pending : (s.idleProof).pending = s.pending := rfl

/-! ## `State.promote`: READY buffers whose turn has come go SENDING -/

@[simp] theorem State.promote_compose : (s.promote).compose = s.compose :=
  by unfold State.promote; split <;> rfl
@[simp] theorem State.promote_press : (s.promote).press = s.press :=
  by unfold State.promote; split <;> rfl
@[simp] theorem State.promote_proof : (s.promote).proof = s.proof :=
  by unfold State.promote; split <;> rfl
@[simp] theorem State.promote_pressLate : (s.promote).pressLate = s.pressLate :=
  by unfold State.promote; split <;> rfl
@[simp] theorem State.promote_proofLate : (s.promote).proofLate = s.proofLate :=
  by unfold State.promote; split <;> rfl
@[simp] theorem State.promote_pages : (s.promote).pages = s.pages :=
  by unfold State.promote; split <;> rfl
@[simp] theorem State.promote_freeRecords : (s.promote).freeRecords = s.freeRecords :=
  by unfold State.promote; split <;> rfl
@[simp] theorem State.promote_freeSet : (s.promote).freeSet = s.freeSet :=
  by unfold State.promote; split <;> rfl
@[simp] theorem State.promote_store : (s.promote).store = s.store :=
  by unfold State.promote; split <;> rfl
@[simp] theorem State.promote_undefinedDraws : (s.promote).undefinedDraws = s.undefinedDraws :=
  by unfold State.promote; split <;> rfl
@[simp] theorem State.promote_queue : (s.promote).queue = s.queue :=
  by unfold State.promote; split <;> rfl
@[simp] theorem State.promote_delivering : (s.promote).delivering = s.delivering :=
  by unfold State.promote; split <;> rfl
@[simp] theorem State.promote_encoder : (s.promote).encoder = s.encoder :=
  by unfold State.promote; split <;> rfl
@[simp] theorem State.promote_proofChannel : (s.promote).proofChannel = s.proofChannel :=
  by unfold State.promote; split <;> rfl
@[simp] theorem State.promote_delivery : (s.promote).delivery = s.delivery :=
  by unfold State.promote; split <;> rfl
@[simp] theorem State.promote_view : (s.promote).view = s.view :=
  by unfold State.promote; split <;> rfl
@[simp] theorem State.promote_sched : (s.promote).sched = s.sched :=
  by unfold State.promote; split <;> rfl
@[simp] theorem State.promote_lastReading : (s.promote).lastReading = s.lastReading :=
  by unfold State.promote; split <;> rfl
@[simp] theorem State.promote_thermal : (s.promote).thermal = s.thermal :=
  by unfold State.promote; split <;> rfl
@[simp] theorem State.promote_mode : (s.promote).mode = s.mode :=
  by unfold State.promote; split <;> rfl
@[simp] theorem State.promote_retained : (s.promote).retained = s.retained :=
  by unfold State.promote; split <;> rfl
@[simp] theorem State.promote_pending : (s.promote).pending = s.pending :=
  by unfold State.promote; split <;> rfl

/-! ## `State.sendPress`: the Press port sends its next block -/

@[simp] theorem State.sendPress_compose : (s.sendPress).compose = s.compose := by
  unfold State.sendPress; repeat' split
  all_goals rfl
@[simp] theorem State.sendPress_proof : (s.sendPress).proof = s.proof := by
  unfold State.sendPress; repeat' split
  all_goals rfl
@[simp] theorem State.sendPress_pressLate : (s.sendPress).pressLate = s.pressLate := by
  unfold State.sendPress; repeat' split
  all_goals rfl
@[simp] theorem State.sendPress_proofLate : (s.sendPress).proofLate = s.proofLate := by
  unfold State.sendPress; repeat' split
  all_goals rfl
@[simp] theorem State.sendPress_pages : (s.sendPress).pages = s.pages := by
  unfold State.sendPress; repeat' split
  all_goals rfl
@[simp] theorem State.sendPress_freeRecords : (s.sendPress).freeRecords = s.freeRecords := by
  unfold State.sendPress; repeat' split
  all_goals rfl
@[simp] theorem State.sendPress_freeSet : (s.sendPress).freeSet = s.freeSet := by
  unfold State.sendPress; repeat' split
  all_goals rfl
@[simp] theorem State.sendPress_store : (s.sendPress).store = s.store := by
  unfold State.sendPress; repeat' split
  all_goals rfl
@[simp] theorem State.sendPress_undefinedDraws : (s.sendPress).undefinedDraws = s.undefinedDraws := by
  unfold State.sendPress; repeat' split
  all_goals rfl
@[simp] theorem State.sendPress_queue : (s.sendPress).queue = s.queue := by
  unfold State.sendPress; repeat' split
  all_goals rfl
@[simp] theorem State.sendPress_delivering : (s.sendPress).delivering = s.delivering := by
  unfold State.sendPress; repeat' split
  all_goals rfl
@[simp] theorem State.sendPress_encoder : (s.sendPress).encoder = s.encoder := by
  unfold State.sendPress; repeat' split
  all_goals rfl
@[simp] theorem State.sendPress_pressChannel : (s.sendPress).pressChannel = s.pressChannel := by
  unfold State.sendPress; repeat' split
  all_goals rfl
@[simp] theorem State.sendPress_proofChannel : (s.sendPress).proofChannel = s.proofChannel := by
  unfold State.sendPress; repeat' split
  all_goals rfl
@[simp] theorem State.sendPress_view : (s.sendPress).view = s.view := by
  unfold State.sendPress; repeat' split
  all_goals rfl
@[simp] theorem State.sendPress_sched : (s.sendPress).sched = s.sched := by
  unfold State.sendPress; repeat' split
  all_goals rfl
@[simp] theorem State.sendPress_lastReading : (s.sendPress).lastReading = s.lastReading := by
  unfold State.sendPress; repeat' split
  all_goals rfl
@[simp] theorem State.sendPress_thermal : (s.sendPress).thermal = s.thermal := by
  unfold State.sendPress; repeat' split
  all_goals rfl
@[simp] theorem State.sendPress_mode : (s.sendPress).mode = s.mode := by
  unfold State.sendPress; repeat' split
  all_goals rfl
@[simp] theorem State.sendPress_retained : (s.sendPress).retained = s.retained := by
  unfold State.sendPress; repeat' split
  all_goals rfl
@[simp] theorem State.sendPress_pending : (s.sendPress).pending = s.pending := by
  unfold State.sendPress; repeat' split
  all_goals rfl

/-! ## `State.sendView`: the Proof port sends its next block -/

@[simp] theorem State.sendView_compose : (s.sendView).compose = s.compose := by
  unfold State.sendView; repeat' split
  all_goals rfl
@[simp] theorem State.sendView_press : (s.sendView).press = s.press := by
  unfold State.sendView; repeat' split
  all_goals rfl
@[simp] theorem State.sendView_pressLate : (s.sendView).pressLate = s.pressLate := by
  unfold State.sendView; repeat' split
  all_goals rfl
@[simp] theorem State.sendView_proofLate : (s.sendView).proofLate = s.proofLate := by
  unfold State.sendView; repeat' split
  all_goals rfl
@[simp] theorem State.sendView_pages : (s.sendView).pages = s.pages := by
  unfold State.sendView; repeat' split
  all_goals rfl
@[simp] theorem State.sendView_freeRecords : (s.sendView).freeRecords = s.freeRecords := by
  unfold State.sendView; repeat' split
  all_goals rfl
@[simp] theorem State.sendView_freeSet : (s.sendView).freeSet = s.freeSet := by
  unfold State.sendView; repeat' split
  all_goals rfl
@[simp] theorem State.sendView_store : (s.sendView).store = s.store := by
  unfold State.sendView; repeat' split
  all_goals rfl
@[simp] theorem State.sendView_undefinedDraws : (s.sendView).undefinedDraws = s.undefinedDraws := by
  unfold State.sendView; repeat' split
  all_goals rfl
@[simp] theorem State.sendView_queue : (s.sendView).queue = s.queue := by
  unfold State.sendView; repeat' split
  all_goals rfl
@[simp] theorem State.sendView_delivering : (s.sendView).delivering = s.delivering := by
  unfold State.sendView; repeat' split
  all_goals rfl
@[simp] theorem State.sendView_encoder : (s.sendView).encoder = s.encoder := by
  unfold State.sendView; repeat' split
  all_goals rfl
@[simp] theorem State.sendView_pressChannel : (s.sendView).pressChannel = s.pressChannel := by
  unfold State.sendView; repeat' split
  all_goals rfl
@[simp] theorem State.sendView_proofChannel : (s.sendView).proofChannel = s.proofChannel := by
  unfold State.sendView; repeat' split
  all_goals rfl
@[simp] theorem State.sendView_delivery : (s.sendView).delivery = s.delivery := by
  unfold State.sendView; repeat' split
  all_goals rfl
@[simp] theorem State.sendView_sched : (s.sendView).sched = s.sched := by
  unfold State.sendView; repeat' split
  all_goals rfl
@[simp] theorem State.sendView_lastReading : (s.sendView).lastReading = s.lastReading := by
  unfold State.sendView; repeat' split
  all_goals rfl
@[simp] theorem State.sendView_thermal : (s.sendView).thermal = s.thermal := by
  unfold State.sendView; repeat' split
  all_goals rfl
@[simp] theorem State.sendView_mode : (s.sendView).mode = s.mode := by
  unfold State.sendView; repeat' split
  all_goals rfl
@[simp] theorem State.sendView_retained : (s.sendView).retained = s.retained := by
  unfold State.sendView; repeat' split
  all_goals rfl
@[simp] theorem State.sendView_pending : (s.sendView).pending = s.pending := by
  unfold State.sendView; repeat' split
  all_goals rfl

/-! ## `State.endPress`: a delivery ends -/

@[simp] theorem State.endPress_compose (x : Ending) (n : Nat) : (s.endPress x n).compose = s.compose := by
  unfold State.endPress; split
  · rfl
  · dsimp only; split <;> simp
@[simp] theorem State.endPress_proof (x : Ending) (n : Nat) : (s.endPress x n).proof = s.proof := by
  unfold State.endPress; split
  · rfl
  · dsimp only; split <;> simp
@[simp] theorem State.endPress_proofLate (x : Ending) (n : Nat) : (s.endPress x n).proofLate = s.proofLate := by
  unfold State.endPress; split
  · rfl
  · dsimp only; split <;> simp
@[simp] theorem State.endPress_store (x : Ending) (n : Nat) : (s.endPress x n).store = s.store := by
  unfold State.endPress; split
  · rfl
  · dsimp only; split <;> simp
@[simp] theorem State.endPress_undefinedDraws (x : Ending) (n : Nat) : (s.endPress x n).undefinedDraws = s.undefinedDraws := by
  unfold State.endPress; split
  · rfl
  · dsimp only; split <;> simp
@[simp] theorem State.endPress_encoder (x : Ending) (n : Nat) : (s.endPress x n).encoder = s.encoder := by
  unfold State.endPress; split
  · rfl
  · dsimp only; split <;> simp
@[simp] theorem State.endPress_proofChannel (x : Ending) (n : Nat) : (s.endPress x n).proofChannel = s.proofChannel := by
  unfold State.endPress; split
  · rfl
  · dsimp only; split <;> simp
@[simp] theorem State.endPress_view (x : Ending) (n : Nat) : (s.endPress x n).view = s.view := by
  unfold State.endPress; split
  · rfl
  · dsimp only; split <;> simp
@[simp] theorem State.endPress_lastReading (x : Ending) (n : Nat) : (s.endPress x n).lastReading = s.lastReading := by
  unfold State.endPress; split
  · rfl
  · dsimp only; split <;> simp
@[simp] theorem State.endPress_thermal (x : Ending) (n : Nat) : (s.endPress x n).thermal = s.thermal := by
  unfold State.endPress; split
  · rfl
  · dsimp only; split <;> simp
@[simp] theorem State.endPress_mode (x : Ending) (n : Nat) : (s.endPress x n).mode = s.mode := by
  unfold State.endPress; split
  · rfl
  · dsimp only; split <;> simp
@[simp] theorem State.endPress_retained (x : Ending) (n : Nat) : (s.endPress x n).retained = s.retained := by
  unfold State.endPress; split
  · rfl
  · dsimp only; split <;> simp
@[simp] theorem State.endPress_pending (x : Ending) (n : Nat) : (s.endPress x n).pending = s.pending := by
  unfold State.endPress; split
  · rfl
  · dsimp only; split <;> simp

/-! ## `State.endView`: a view ends -/

@[simp] theorem State.endView_compose (x : Ending) (n : Nat) : (s.endView x n).compose = s.compose :=
  by unfold State.endView; split <;> simp
@[simp] theorem State.endView_press (x : Ending) (n : Nat) : (s.endView x n).press = s.press :=
  by unfold State.endView; split <;> simp
@[simp] theorem State.endView_pressLate (x : Ending) (n : Nat) : (s.endView x n).pressLate = s.pressLate :=
  by unfold State.endView; split <;> simp
@[simp] theorem State.endView_store (x : Ending) (n : Nat) : (s.endView x n).store = s.store :=
  by unfold State.endView; split <;> simp
@[simp] theorem State.endView_undefinedDraws (x : Ending) (n : Nat) : (s.endView x n).undefinedDraws = s.undefinedDraws :=
  by unfold State.endView; split <;> simp
@[simp] theorem State.endView_queue (x : Ending) (n : Nat) : (s.endView x n).queue = s.queue :=
  by unfold State.endView; split <;> simp
@[simp] theorem State.endView_delivering (x : Ending) (n : Nat) : (s.endView x n).delivering = s.delivering :=
  by unfold State.endView; split <;> simp
@[simp] theorem State.endView_encoder (x : Ending) (n : Nat) : (s.endView x n).encoder = s.encoder :=
  by unfold State.endView; split <;> simp
@[simp] theorem State.endView_pressChannel (x : Ending) (n : Nat) : (s.endView x n).pressChannel = s.pressChannel :=
  by unfold State.endView; split <;> simp
@[simp] theorem State.endView_delivery (x : Ending) (n : Nat) : (s.endView x n).delivery = s.delivery :=
  by unfold State.endView; split <;> simp
@[simp] theorem State.endView_lastReading (x : Ending) (n : Nat) : (s.endView x n).lastReading = s.lastReading :=
  by unfold State.endView; split <;> simp
@[simp] theorem State.endView_thermal (x : Ending) (n : Nat) : (s.endView x n).thermal = s.thermal :=
  by unfold State.endView; split <;> simp
@[simp] theorem State.endView_mode (x : Ending) (n : Nat) : (s.endView x n).mode = s.mode :=
  by unfold State.endView; split <;> simp
@[simp] theorem State.endView_retained (x : Ending) (n : Nat) : (s.endView x n).retained = s.retained :=
  by unfold State.endView; split <;> simp
@[simp] theorem State.endView_pending (x : Ending) (n : Nat) : (s.endView x n).pending = s.pending :=
  by unfold State.endView; split <;> simp

/-! ## `State.dropDelivery`: a delivery is dropped -/

@[simp] theorem State.dropDelivery_compose : (s.dropDelivery).compose = s.compose := rfl
@[simp] theorem State.dropDelivery_press : (s.dropDelivery).press = s.press := rfl
@[simp] theorem State.dropDelivery_proof : (s.dropDelivery).proof = s.proof := rfl
@[simp] theorem State.dropDelivery_proofLate : (s.dropDelivery).proofLate = s.proofLate := rfl
@[simp] theorem State.dropDelivery_pages : (s.dropDelivery).pages = s.pages := rfl
@[simp] theorem State.dropDelivery_freeRecords : (s.dropDelivery).freeRecords = s.freeRecords :=
  rfl
@[simp] theorem State.dropDelivery_freeSet : (s.dropDelivery).freeSet = s.freeSet := rfl
@[simp] theorem State.dropDelivery_store : (s.dropDelivery).store = s.store := rfl
@[simp] theorem State.dropDelivery_undefinedDraws : (s.dropDelivery).undefinedDraws = s.undefinedDraws :=
  rfl
@[simp] theorem State.dropDelivery_queue : (s.dropDelivery).queue = s.queue := rfl
@[simp] theorem State.dropDelivery_encoder : (s.dropDelivery).encoder = s.encoder := rfl
@[simp] theorem State.dropDelivery_proofChannel : (s.dropDelivery).proofChannel = s.proofChannel :=
  rfl
@[simp] theorem State.dropDelivery_view : (s.dropDelivery).view = s.view := rfl
@[simp] theorem State.dropDelivery_lastReading : (s.dropDelivery).lastReading = s.lastReading :=
  rfl
@[simp] theorem State.dropDelivery_thermal : (s.dropDelivery).thermal = s.thermal := rfl
@[simp] theorem State.dropDelivery_mode : (s.dropDelivery).mode = s.mode := rfl
@[simp] theorem State.dropDelivery_retained : (s.dropDelivery).retained = s.retained := rfl
@[simp] theorem State.dropDelivery_pending : (s.dropDelivery).pending = s.pending := rfl

/-! ## `State.dropView`: a view is dropped -/

@[simp] theorem State.dropView_compose : (s.dropView).compose = s.compose :=
  by unfold State.dropView; split <;> simp
@[simp] theorem State.dropView_press : (s.dropView).press = s.press :=
  by unfold State.dropView; split <;> simp
@[simp] theorem State.dropView_proof : (s.dropView).proof = s.proof :=
  by unfold State.dropView; split <;> simp
@[simp] theorem State.dropView_pressLate : (s.dropView).pressLate = s.pressLate :=
  by unfold State.dropView; split <;> simp
@[simp] theorem State.dropView_store : (s.dropView).store = s.store :=
  by unfold State.dropView; split <;> simp
@[simp] theorem State.dropView_undefinedDraws : (s.dropView).undefinedDraws = s.undefinedDraws :=
  by unfold State.dropView; split <;> simp
@[simp] theorem State.dropView_queue : (s.dropView).queue = s.queue :=
  by unfold State.dropView; split <;> simp
@[simp] theorem State.dropView_delivering : (s.dropView).delivering = s.delivering :=
  by unfold State.dropView; split <;> simp
@[simp] theorem State.dropView_encoder : (s.dropView).encoder = s.encoder :=
  by unfold State.dropView; split <;> simp
@[simp] theorem State.dropView_pressChannel : (s.dropView).pressChannel = s.pressChannel :=
  by unfold State.dropView; split <;> simp
@[simp] theorem State.dropView_delivery : (s.dropView).delivery = s.delivery :=
  by unfold State.dropView; split <;> simp
@[simp] theorem State.dropView_lastReading : (s.dropView).lastReading = s.lastReading :=
  by unfold State.dropView; split <;> simp
@[simp] theorem State.dropView_thermal : (s.dropView).thermal = s.thermal :=
  by unfold State.dropView; split <;> simp
@[simp] theorem State.dropView_mode : (s.dropView).mode = s.mode :=
  by unfold State.dropView; split <;> simp
@[simp] theorem State.dropView_retained : (s.dropView).retained = s.retained :=
  by unfold State.dropView; split <;> simp
@[simp] theorem State.dropView_pending : (s.dropView).pending = s.pending :=
  by unfold State.dropView; split <;> simp

/-! ## `State.cancelCommit`: a commit is cancelled -/

@[simp] theorem State.cancelCommit_compose (w : EncoderWork) : (s.cancelCommit w).compose = s.compose := by
  unfold State.cancelCommit; dsimp only; split <;> rfl
@[simp] theorem State.cancelCommit_press (w : EncoderWork) : (s.cancelCommit w).press = s.press := by
  unfold State.cancelCommit; dsimp only; split <;> rfl
@[simp] theorem State.cancelCommit_proof (w : EncoderWork) : (s.cancelCommit w).proof = s.proof := by
  unfold State.cancelCommit; dsimp only; split <;> rfl
@[simp] theorem State.cancelCommit_pressLate (w : EncoderWork) : (s.cancelCommit w).pressLate = s.pressLate := by
  unfold State.cancelCommit; dsimp only; split <;> rfl
@[simp] theorem State.cancelCommit_proofLate (w : EncoderWork) : (s.cancelCommit w).proofLate = s.proofLate := by
  unfold State.cancelCommit; dsimp only; split <;> rfl
@[simp] theorem State.cancelCommit_freeRecords (w : EncoderWork) : (s.cancelCommit w).freeRecords = s.freeRecords := by
  unfold State.cancelCommit; dsimp only; split <;> rfl
@[simp] theorem State.cancelCommit_store (w : EncoderWork) : (s.cancelCommit w).store = s.store := by
  unfold State.cancelCommit; dsimp only; split <;> rfl
@[simp] theorem State.cancelCommit_undefinedDraws (w : EncoderWork) : (s.cancelCommit w).undefinedDraws = s.undefinedDraws := by
  unfold State.cancelCommit; dsimp only; split <;> rfl
@[simp] theorem State.cancelCommit_queue (w : EncoderWork) : (s.cancelCommit w).queue = s.queue := by
  unfold State.cancelCommit; dsimp only; split <;> rfl
@[simp] theorem State.cancelCommit_delivering (w : EncoderWork) : (s.cancelCommit w).delivering = s.delivering := by
  unfold State.cancelCommit; dsimp only; split <;> rfl
@[simp] theorem State.cancelCommit_encoder (w : EncoderWork) : (s.cancelCommit w).encoder = s.encoder := by
  unfold State.cancelCommit; dsimp only; split <;> rfl
@[simp] theorem State.cancelCommit_pressChannel (w : EncoderWork) : (s.cancelCommit w).pressChannel = s.pressChannel := by
  unfold State.cancelCommit; dsimp only; split <;> rfl
@[simp] theorem State.cancelCommit_proofChannel (w : EncoderWork) : (s.cancelCommit w).proofChannel = s.proofChannel := by
  unfold State.cancelCommit; dsimp only; split <;> rfl
@[simp] theorem State.cancelCommit_delivery (w : EncoderWork) : (s.cancelCommit w).delivery = s.delivery := by
  unfold State.cancelCommit; dsimp only; split <;> rfl
@[simp] theorem State.cancelCommit_view (w : EncoderWork) : (s.cancelCommit w).view = s.view := by
  unfold State.cancelCommit; dsimp only; split <;> rfl
@[simp] theorem State.cancelCommit_lastReading (w : EncoderWork) : (s.cancelCommit w).lastReading = s.lastReading := by
  unfold State.cancelCommit; dsimp only; split <;> rfl
@[simp] theorem State.cancelCommit_thermal (w : EncoderWork) : (s.cancelCommit w).thermal = s.thermal := by
  unfold State.cancelCommit; dsimp only; split <;> rfl
@[simp] theorem State.cancelCommit_mode (w : EncoderWork) : (s.cancelCommit w).mode = s.mode := by
  unfold State.cancelCommit; dsimp only; split <;> rfl
@[simp] theorem State.cancelCommit_retained (w : EncoderWork) : (s.cancelCommit w).retained = s.retained := by
  unfold State.cancelCommit; dsimp only; split <;> rfl
@[simp] theorem State.cancelCommit_pending (w : EncoderWork) : (s.cancelCommit w).pending = s.pending := by
  unfold State.cancelCommit; dsimp only; split <;> rfl

/-! ## `State.tear`: the FILLING page is torn -/

@[simp] theorem State.tear_compose : (s.tear).compose = s.compose :=
  by unfold State.tear; split <;> simp
@[simp] theorem State.tear_press : (s.tear).press = s.press := by unfold State.tear; split <;> simp
@[simp] theorem State.tear_proof : (s.tear).proof = s.proof := by unfold State.tear; split <;> simp
@[simp] theorem State.tear_pressLate : (s.tear).pressLate = s.pressLate :=
  by unfold State.tear; split <;> simp
@[simp] theorem State.tear_proofLate : (s.tear).proofLate = s.proofLate :=
  by unfold State.tear; split <;> simp
@[simp] theorem State.tear_freeRecords : (s.tear).freeRecords = s.freeRecords :=
  by unfold State.tear; split <;> simp
@[simp] theorem State.tear_store : (s.tear).store = s.store := by unfold State.tear; split <;> simp
@[simp] theorem State.tear_undefinedDraws : (s.tear).undefinedDraws = s.undefinedDraws :=
  by unfold State.tear; split <;> simp
@[simp] theorem State.tear_queue : (s.tear).queue = s.queue := by unfold State.tear; split <;> simp
@[simp] theorem State.tear_delivering : (s.tear).delivering = s.delivering :=
  by unfold State.tear; split <;> simp
@[simp] theorem State.tear_pressChannel : (s.tear).pressChannel = s.pressChannel :=
  by unfold State.tear; split <;> simp
@[simp] theorem State.tear_proofChannel : (s.tear).proofChannel = s.proofChannel :=
  by unfold State.tear; split <;> simp
@[simp] theorem State.tear_delivery : (s.tear).delivery = s.delivery :=
  by unfold State.tear; split <;> simp
@[simp] theorem State.tear_view : (s.tear).view = s.view := by unfold State.tear; split <;> simp
@[simp] theorem State.tear_lastReading : (s.tear).lastReading = s.lastReading :=
  by unfold State.tear; split <;> simp
@[simp] theorem State.tear_thermal : (s.tear).thermal = s.thermal :=
  by unfold State.tear; split <;> simp
@[simp] theorem State.tear_mode : (s.tear).mode = s.mode := by unfold State.tear; split <;> simp
@[simp] theorem State.tear_retained : (s.tear).retained = s.retained :=
  by unfold State.tear; split <;> simp
@[simp] theorem State.tear_pending : (s.tear).pending = s.pending :=
  by unfold State.tear; split <;> simp

/-! ## `State.sealNow`: SEAL_PAGE is judged -/

@[simp] theorem State.sealNow_pressLate (w : EncoderWork) : (s.sealNow w).pressLate = s.pressLate :=
  by unfold State.sealNow; split <;> simp
@[simp] theorem State.sealNow_proofLate (w : EncoderWork) : (s.sealNow w).proofLate = s.proofLate :=
  by unfold State.sealNow; split <;> simp
@[simp] theorem State.sealNow_freeRecords (w : EncoderWork) : (s.sealNow w).freeRecords = s.freeRecords :=
  by unfold State.sealNow; split <;> simp
@[simp] theorem State.sealNow_freeSet (w : EncoderWork) : (s.sealNow w).freeSet = s.freeSet :=
  by unfold State.sealNow; split <;> simp
@[simp] theorem State.sealNow_store (w : EncoderWork) : (s.sealNow w).store = s.store :=
  by unfold State.sealNow; split <;> simp
@[simp] theorem State.sealNow_undefinedDraws (w : EncoderWork) : (s.sealNow w).undefinedDraws = s.undefinedDraws :=
  by unfold State.sealNow; split <;> simp
@[simp] theorem State.sealNow_queue (w : EncoderWork) : (s.sealNow w).queue = s.queue :=
  by unfold State.sealNow; split <;> simp
@[simp] theorem State.sealNow_delivering (w : EncoderWork) : (s.sealNow w).delivering = s.delivering :=
  by unfold State.sealNow; split <;> simp
@[simp] theorem State.sealNow_pressChannel (w : EncoderWork) : (s.sealNow w).pressChannel = s.pressChannel :=
  by unfold State.sealNow; split <;> simp
@[simp] theorem State.sealNow_proofChannel (w : EncoderWork) : (s.sealNow w).proofChannel = s.proofChannel :=
  by unfold State.sealNow; split <;> simp
@[simp] theorem State.sealNow_delivery (w : EncoderWork) : (s.sealNow w).delivery = s.delivery :=
  by unfold State.sealNow; split <;> simp
@[simp] theorem State.sealNow_view (w : EncoderWork) : (s.sealNow w).view = s.view :=
  by unfold State.sealNow; split <;> simp
@[simp] theorem State.sealNow_sched (w : EncoderWork) : (s.sealNow w).sched = s.sched :=
  by unfold State.sealNow; split <;> simp
@[simp] theorem State.sealNow_lastReading (w : EncoderWork) : (s.sealNow w).lastReading = s.lastReading :=
  by unfold State.sealNow; split <;> simp
@[simp] theorem State.sealNow_thermal (w : EncoderWork) : (s.sealNow w).thermal = s.thermal :=
  by unfold State.sealNow; split <;> simp
@[simp] theorem State.sealNow_mode (w : EncoderWork) : (s.sealNow w).mode = s.mode :=
  by unfold State.sealNow; split <;> simp
@[simp] theorem State.sealNow_retained (w : EncoderWork) : (s.sealNow w).retained = s.retained :=
  by unfold State.sealNow; split <;> simp
@[simp] theorem State.sealNow_pending (w : EncoderWork) : (s.sealNow w).pending = s.pending :=
  by unfold State.sealNow; split <;> simp

/-! ## `State.abandonNow`: ABANDON_PAGE is carried out -/

@[simp] theorem State.abandonNow_pressLate (w : EncoderWork) : (s.abandonNow w).pressLate = s.pressLate :=
  by unfold State.abandonNow; simp
@[simp] theorem State.abandonNow_proofLate (w : EncoderWork) : (s.abandonNow w).proofLate = s.proofLate :=
  by unfold State.abandonNow; simp
@[simp] theorem State.abandonNow_store (w : EncoderWork) : (s.abandonNow w).store = s.store :=
  by unfold State.abandonNow; simp
@[simp] theorem State.abandonNow_undefinedDraws (w : EncoderWork) : (s.abandonNow w).undefinedDraws = s.undefinedDraws :=
  by unfold State.abandonNow; simp
@[simp] theorem State.abandonNow_queue (w : EncoderWork) : (s.abandonNow w).queue = s.queue :=
  by unfold State.abandonNow; simp
@[simp] theorem State.abandonNow_delivering (w : EncoderWork) : (s.abandonNow w).delivering = s.delivering :=
  by unfold State.abandonNow; simp
@[simp] theorem State.abandonNow_pressChannel (w : EncoderWork) : (s.abandonNow w).pressChannel = s.pressChannel :=
  by unfold State.abandonNow; simp
@[simp] theorem State.abandonNow_proofChannel (w : EncoderWork) : (s.abandonNow w).proofChannel = s.proofChannel :=
  by unfold State.abandonNow; simp
@[simp] theorem State.abandonNow_delivery (w : EncoderWork) : (s.abandonNow w).delivery = s.delivery :=
  by unfold State.abandonNow; simp
@[simp] theorem State.abandonNow_view (w : EncoderWork) : (s.abandonNow w).view = s.view :=
  by unfold State.abandonNow; simp
@[simp] theorem State.abandonNow_sched (w : EncoderWork) : (s.abandonNow w).sched = s.sched :=
  by unfold State.abandonNow; simp
@[simp] theorem State.abandonNow_lastReading (w : EncoderWork) : (s.abandonNow w).lastReading = s.lastReading :=
  by unfold State.abandonNow; simp
@[simp] theorem State.abandonNow_thermal (w : EncoderWork) : (s.abandonNow w).thermal = s.thermal :=
  by unfold State.abandonNow; simp
@[simp] theorem State.abandonNow_mode (w : EncoderWork) : (s.abandonNow w).mode = s.mode :=
  by unfold State.abandonNow; simp
@[simp] theorem State.abandonNow_retained (w : EncoderWork) : (s.abandonNow w).retained = s.retained :=
  by unfold State.abandonNow; simp
@[simp] theorem State.abandonNow_pending (w : EncoderWork) : (s.abandonNow w).pending = s.pending :=
  by unfold State.abandonNow; simp

/-! ## `State.judgeDeferred`: a deferred reply is judged -/

@[simp] theorem State.judgeDeferred_pressLate : (s.judgeDeferred).pressLate = s.pressLate := by
  unfold State.judgeDeferred; repeat' split
  all_goals simp
@[simp] theorem State.judgeDeferred_proofLate : (s.judgeDeferred).proofLate = s.proofLate := by
  unfold State.judgeDeferred; repeat' split
  all_goals simp
@[simp] theorem State.judgeDeferred_store : (s.judgeDeferred).store = s.store := by
  unfold State.judgeDeferred; repeat' split
  all_goals simp
@[simp] theorem State.judgeDeferred_undefinedDraws : (s.judgeDeferred).undefinedDraws = s.undefinedDraws := by
  unfold State.judgeDeferred; repeat' split
  all_goals simp
@[simp] theorem State.judgeDeferred_queue : (s.judgeDeferred).queue = s.queue := by
  unfold State.judgeDeferred; repeat' split
  all_goals simp
@[simp] theorem State.judgeDeferred_delivering : (s.judgeDeferred).delivering = s.delivering := by
  unfold State.judgeDeferred; repeat' split
  all_goals simp
@[simp] theorem State.judgeDeferred_pressChannel : (s.judgeDeferred).pressChannel = s.pressChannel := by
  unfold State.judgeDeferred; repeat' split
  all_goals simp
@[simp] theorem State.judgeDeferred_proofChannel : (s.judgeDeferred).proofChannel = s.proofChannel := by
  unfold State.judgeDeferred; repeat' split
  all_goals simp
@[simp] theorem State.judgeDeferred_delivery : (s.judgeDeferred).delivery = s.delivery := by
  unfold State.judgeDeferred; repeat' split
  all_goals simp
@[simp] theorem State.judgeDeferred_view : (s.judgeDeferred).view = s.view := by
  unfold State.judgeDeferred; repeat' split
  all_goals simp
@[simp] theorem State.judgeDeferred_sched : (s.judgeDeferred).sched = s.sched := by
  unfold State.judgeDeferred; repeat' split
  all_goals simp
@[simp] theorem State.judgeDeferred_lastReading : (s.judgeDeferred).lastReading = s.lastReading := by
  unfold State.judgeDeferred; repeat' split
  all_goals simp
@[simp] theorem State.judgeDeferred_thermal : (s.judgeDeferred).thermal = s.thermal := by
  unfold State.judgeDeferred; repeat' split
  all_goals simp
@[simp] theorem State.judgeDeferred_mode : (s.judgeDeferred).mode = s.mode := by
  unfold State.judgeDeferred; repeat' split
  all_goals simp
@[simp] theorem State.judgeDeferred_retained : (s.judgeDeferred).retained = s.retained := by
  unfold State.judgeDeferred; repeat' split
  all_goals simp
@[simp] theorem State.judgeDeferred_pending : (s.judgeDeferred).pending = s.pending := by
  unfold State.judgeDeferred; repeat' split
  all_goals simp

end Sys2Proof.Machine
end

