-- ==== Sys2Proof/Laws/Ops.lean ====
section
/-! SUPPORT. What each shared operation can do: ports, records, the judgement of a command frame, the
scheduler, rest control. -/

namespace Sys2Proof.Machine

/-! ## Ports -/

@[simp] theorem State.port_compose (s : State) : s.port .compose = s.compose := rfl
@[simp] theorem State.port_press (s : State) : s.port .press = s.press := rfl
@[simp] theorem State.port_proof (s : State) : s.port .proof = s.proof := rfl

@[simp] theorem State.setPort_compose_eq (s : State) (r : PortRec) :
    s.setPort .compose r = { s with compose := r } := rfl
@[simp] theorem State.setPort_press_eq (s : State) (r : PortRec) :
    s.setPort .press r = { s with press := r } := rfl
@[simp] theorem State.setPort_proof_eq (s : State) (r : PortRec) :
    s.setPort .proof r = { s with proof := r } := rfl

@[simp] theorem State.port_setPort (s : State) (p : Port) (r : PortRec) :
    (s.setPort p r).port p = r := by cases p <;> rfl

theorem State.port_setPort_ne (s : State) {p q : Port} (r : PortRec) (h : q ≠ p) :
    (s.setPort p r).port q = s.port q := by
  cases p <;> cases q <;> first | rfl | exact absurd rfl h

@[simp] theorem State.setPort_setPort (s : State) (p : Port) (r r' : PortRec) :
    (s.setPort p r).setPort p r' = s.setPort p r' := by cases p <;> rfl

@[simp] theorem State.setPort_port (s : State) (p : Port) : s.setPort p (s.port p) = s := by
  cases p <;> rfl

@[simp] theorem State.port_updatePort (s : State) (p : Port) (f : PortRec → PortRec) :
    (s.updatePort p f).port p = f (s.port p) := by cases p <;> rfl

theorem State.port_updatePort_ne (s : State) {p q : Port} (f : PortRec → PortRec) (h : q ≠ p) :
    (s.updatePort p f).port q = s.port q := s.port_setPort_ne _ h

/-- A port's list takes a frame at its tail unless the port is DOWN. -/
theorem PortRec.send_eq (r : PortRec) (f : Frame) (h : r.state ≠ .down) :
    r.send f = { r with transmit := r.transmit ++ [f] } := if_neg h

@[simp] theorem PortRec.send_down (r : PortRec) (f : Frame) (h : r.state = .down) : r.send f = r :=
  if_pos h

@[simp] theorem PortRec.send_state (r : PortRec) (f : Frame) : (r.send f).state = r.state := by
  unfold PortRec.send; split <;> rfl
@[simp] theorem PortRec.send_outstanding (r : PortRec) (f : Frame) :
    (r.send f).outstanding = r.outstanding := by unfold PortRec.send; split <;> rfl
@[simp] theorem PortRec.send_frameCheck (r : PortRec) (f : Frame) :
    (r.send f).frameCheck = r.frameCheck := by unfold PortRec.send; split <;> rfl
@[simp] theorem PortRec.send_stray (r : PortRec) (f : Frame) : (r.send f).stray = r.stray := by
  unfold PortRec.send; split <;> rfl
@[simp] theorem PortRec.send_receiver (r : PortRec) (f : Frame) :
    (r.send f).receiver = r.receiver := by unfold PortRec.send; split <;> rfl

/-- What STATUS, ENQUEUE and every other command's reply is made of: one reply frame at the tail. -/
theorem State.reply_eq (s : State) (p : Port) (c : Byte) (x : Result) (l : List Byte) :
    s.reply p c x l = s.setPort p ((s.port p).send (.reply c x (s.port p).state l)) := rfl

/-! ## Records -/

@[simp] theorem State.page_setPage (s : State) (h : Handle) (r : PageRecord) :
    (s.setPage h r).page h = r := by simp [State.page, State.setPage]

theorem State.page_setPage_ne (s : State) {h g : Handle} (r : PageRecord) (hg : g ≠ h) :
    (s.setPage h r).page g = s.page g := by
  have : h.toNat ≠ g.toNat := fun e => hg (BitVec.eq_of_toNat_eq e.symm)
  simp [State.page, State.setPage, Vector.getElem_set_ne, this]

theorem State.page_setPage_if (s : State) (h g : Handle) (r : PageRecord) :
    (s.setPage h r).page g = if g = h then r else s.page g := by
  split
  · next e => subst e; simp
  · next e => exact s.page_setPage_ne r e

@[simp] theorem State.setPage_setPage (s : State) (h : Handle) (r r' : PageRecord) :
    (s.setPage h r).setPage h r' = s.setPage h r' := by simp [State.setPage, Vector.set_set]

/-- A record depends on the directory's vector alone. -/
theorem State.page_congr {s t : State} (e : t.pages = s.pages) (h : Handle) : t.page h = s.page h := by
  simp [State.page, e]

/-- Two directories with equal records are equal. -/
theorem State.pages_ext {v w : Vector PageRecord 256}
    (h : ∀ g : Handle, v[g.toNat] = w[g.toNat]) : v = w := by
  apply Vector.ext
  intro i hi
  have := h (BitVec.ofNat 8 i)
  simpa [BitVec.toNat_ofNat, Nat.mod_eq_of_lt hi] using this

@[simp] theorem mem_allHandles (h : Handle) : h ∈ allHandles := by
  simp only [allHandles, List.mem_map, List.mem_range]
  exact ⟨h.toNat, h.isLt, by simp⟩

@[simp] theorem mapRecords_get (f : PageRecord → PageRecord) (v : Vector PageRecord 256) (i : Nat)
    (hi : i < 256) : (mapRecords f v)[i] = f v[i] := by
  simp [mapRecords]

/-- Which record of a freed page's state is which (R19). -/
theorem State.page_freePage (s : State) (h g : Handle) :
    (s.freePage h).page g = if g = h then PageRecord.free else s.page g :=
  (s.giveBack (s.page h).extents).page_setPage_if h g PageRecord.free

/-- References that end: nothing for none; else the page is freed, if it was release pending and no
reference is left, or its count falls. -/
theorem State.dropRefs_cases (s : State) (h : Handle) (n : Nat) :
    (n = 0 ∧ s.dropRefs h n = s) ∨
    (n ≠ 0 ∧ (s.page h).releasePending = true ∧ (s.page h).references - n = 0 ∧
      s.dropRefs h n = s.freePage h) ∨
    (n ≠ 0 ∧ ¬((s.page h).releasePending = true ∧ (s.page h).references - n = 0) ∧
      s.dropRefs h n = s.setPage h ((s.page h).dropRefs n)) := by
  unfold State.dropRefs
  by_cases h0 : n = 0
  · exact .inl ⟨h0, by simp [h0]⟩
  · by_cases h1 : (s.page h).releasePending = true ∧ (s.page h).references - n = 0
    · refine .inr (.inl ⟨h0, h1.1, h1.2, ?_⟩)
      have hx : ((s.page h).dropRefs n).extents = (s.page h).extents := rfl
      simp only [h0, if_false]
      rw [if_pos (by simpa [PageRecord.dropRefs] using h1)]
      simp [State.freePage, State.giveBack, State.setPage, State.page, PageRecord.dropRefs,
        Vector.set_set]
    · refine .inr (.inr ⟨h0, h1, ?_⟩)
      simp only [h0, if_false]
      rw [if_neg (by simpa [PageRecord.dropRefs] using h1)]

/-! ## The judgement of a command frame (R183) -/

/-- Every outcome of the judgement. -/
theorem State.judge_cases (s : State) (p : Port) (c : Cmd) (body : State → State) :
    ((s.port p).state = .down ∧ s.judge p c body = s) ∨
    ((s.port p).state ≠ .down ∧ (s.port p).outstanding ≠ none ∧ s.judge p c body = s.strayed p) ∨
    ((s.port p).state ≠ .down ∧ (s.port p).outstanding = none ∧
      c.allowed p (s.port p).state = false ∧ s.judge p c body = s.answer p c .illegal []) ∨
    (s.takes p c ∧ s.judge p c body = body (s.setPort p { s.port p with outstanding := some c.code })) := by
  unfold State.judge
  by_cases h1 : (s.port p).state = .down
  · exact .inl ⟨h1, by simp [h1]⟩
  · by_cases h2 : (s.port p).outstanding = none
    · by_cases h3 : c.allowed p (s.port p).state = true
      · exact .inr (.inr (.inr ⟨⟨h1, h2, h3⟩, by simp [h1, h2, h3, State.updatePort, PortRec.take]⟩))
      · refine .inr (.inr (.inl ⟨h1, h2, by simpa using h3, ?_⟩))
        simp [h1, h2, h3, State.updatePort, PortRec.take, State.answer, State.reply_eq, PortRec.send_eq,
          PortRec.answered]
    · refine .inr (.inl ⟨h1, h2, ?_⟩)
      simp [h1, Option.isSome_iff_ne_none, h2, State.markStray, State.updatePort, PortRec.setStray,
        State.strayed]

/-- A taken command goes to its rule with its code outstanding. -/
theorem State.judge_taken {s : State} {p : Port} {c : Cmd} (h : s.takes p c) (body : State → State) :
    s.judge p c body = body (s.setPort p { s.port p with outstanding := some c.code }) := by
  obtain ⟨h1, h2, h3⟩ := h
  simp [State.judge, h1, h2, h3, State.updatePort, PortRec.take]

/-- The reply to a taken command that changes no state of its port. -/
theorem State.reply_taken {s : State} {p : Port} (h : (s.port p).state ≠ .down) (c : Cmd) (x : Result)
    (l : List Byte) :
    (s.setPort p { s.port p with outstanding := some c.code }).reply p c.code x l =
      s.answer p c x l := by
  simp [State.reply_eq, PortRec.send_eq, h, State.answer, PortRec.answered]

/-! ## The scheduler -/

/-- The grant order: nothing while busy or in self-retention or with no candidate eligible, else the first
eligible candidate of Table 8-2. -/
theorem Scheduler.grantNext_cases (c : Scheduler) (t : Thermal) :
    (c.grantNext t = c ∧ ((c.grant ≠ none ∨ c.selfRetention = true) ∨
      ∀ k ∈ grantOrder, c.eligible t k = false)) ∨
    (c.grant = none ∧ c.selfRetention = false ∧ ∃ k ∈ grantOrder, c.eligible t k = true ∧
      (∀ j ∈ grantOrder.takeWhile (· ≠ k), c.eligible t j = false) ∧ c.grantNext t = c.granted k) := by
  unfold Scheduler.grantNext
  by_cases h0 : c.grant.isSome ∨ c.selfRetention
  · refine .inl ⟨by rw [if_pos h0], .inl ?_⟩
    simpa [Option.isSome_iff_ne_none] using h0
  rw [if_neg h0]
  have hg : c.grant = none := by simpa using fun h => h0 (.inl h)
  have hr : c.selfRetention = false := by simpa using fun h => h0 (.inr h)
  by_cases h1 : c.debt = 8
  · exact .inr ⟨hg, hr, .forcedRefresh, by simp [grantOrder, Scheduler.eligible, h1, Scheduler.granted,
      Scheduler.grantRefresh]⟩
  cases h2 : c.pressReq with
  | some r => exact .inr ⟨hg, hr, .pressTransfer, by
      simp [grantOrder, Scheduler.eligible, h1, h2, Scheduler.granted]⟩
  | none =>
    by_cases h3 : 1 ≤ c.debt
    · exact .inr ⟨hg, hr, .owedRefresh, by
        simp [grantOrder, Scheduler.eligible, h1, h2, h3, Scheduler.granted, Scheduler.grantRefresh]⟩
    by_cases hot : t = .hot
    · by_cases h6 : -8 < c.debt ∧ c.drain = false
      · exact .inr ⟨hg, hr, .pullIn, by
          simp [grantOrder, Scheduler.eligible, h1, h2, h3, hot, h6.1, h6.2, Scheduler.granted,
            Scheduler.grantRefresh]⟩
      · refine .inl ⟨by simp [h1, h3, hot, h6], .inr ?_⟩
        simp only [grantOrder, List.forall_mem_cons, Scheduler.eligible]
        simp [h1, h2, h3, hot]
        simpa using h6
    · cases h4 : c.encoderReq with
      | some w => exact .inr ⟨hg, hr, .encoderTransfer, by
          simp [grantOrder, Scheduler.eligible, h1, h2, h3, h4, hot, Scheduler.granted]⟩
      | none =>
        cases h5 : c.proofReq with
        | some w => exact .inr ⟨hg, hr, .proofTransfer, by
            simp [grantOrder, Scheduler.eligible, h1, h2, h3, h4, h5, hot, Scheduler.granted]⟩
        | none =>
          by_cases h6 : -8 < c.debt ∧ c.drain = false
          · exact .inr ⟨hg, hr, .pullIn, by
              simp [grantOrder, Scheduler.eligible, h1, h2, h3, h4, h5, hot, h6.1, h6.2,
                Scheduler.granted, Scheduler.grantRefresh]⟩
          · refine .inl ⟨by simp [h1, h3, hot, h6], .inr ?_⟩
            simp only [grantOrder, List.forall_mem_cons, Scheduler.eligible]
            simp [h1, h2, h3, h4, h5]
            simpa using h6

/-- A busy store makes no grant. -/
theorem Scheduler.grantNext_busy {c : Scheduler} (h : c.grant ≠ none) (t : Thermal) :
    c.grantNext t = c := by
  unfold Scheduler.grantNext
  rw [if_pos (.inl (Option.isSome_iff_ne_none.2 h))]

/-- A store in self-retention makes no grant. -/
theorem Scheduler.grantNext_retained {c : Scheduler} (h : c.selfRetention = true) (t : Thermal) :
    c.grantNext t = c := by
  unfold Scheduler.grantNext
  rw [if_pos (.inr h)]

/-! ## Requests -/

/-- The encoder presents nothing, or the next write of its commit (R82, R151). -/
theorem State.presentWrite_cases (s : State) :
    s.presentWrite = s ∨
    ∃ w o q, s.encoder = some w ∧ w.phase = .committing (.writing o) ∧ s.sched.encoderReq = none ∧
      s.sched.grant.any (·.isWrite) = false ∧ commitWrite w o (s.page w.handle) = some q ∧
      s.presentWrite = (s.updateSched fun c => { c with encoderReq := some q }).grantNext := by
  unfold State.presentWrite
  split
  · next w hw =>
    split
    · next o ho =>
      split
      · exact .inl rfl
      · next h =>
        split
        · exact .inl rfl
        · next q hq => exact .inr ⟨w, o, q, hw, ho, by simpa using (not_or.1 h).1,
            by simpa using (not_or.1 h).2, hq, rfl⟩
    · exact .inl rfl
  · exact .inl rfl

/-- The press channel presents nothing, or its next read (R94, R99, R151). -/
theorem State.presentPress_cases (s : State) :
    s.presentPress = s ∨
    ∃ c q, s.pressChannel = some c ∧ s.sched.pressReq = none ∧ s.sched.grant.any (·.isPress) = false ∧
      c.nextRead (s.page c.handle).extents = some q ∧
      s.presentPress = (s.updateSched fun x => { x with pressReq := some q }).grantNext := by
  unfold State.presentPress
  split
  · exact .inl rfl
  · next c hc =>
    split
    · exact .inl rfl
    · next h =>
      split
      · exact .inl rfl
      · next q hq =>
        exact .inr ⟨c, q, hc, by simpa using (not_or.1 h).1, by simpa using (not_or.1 h).2, hq, rfl⟩

/-- The proof channel presents nothing, or its next read (R94, R103, R151). -/
theorem State.presentProof_cases (s : State) :
    s.presentProof = s ∨
    ∃ c work q, s.proofChannel = some c ∧ c.buffer = .decoding work ∧ s.sched.proofReq = none ∧
      s.sched.grant.any (·.isProof) = false ∧
      work.nextRead .proof c.handle (c.band * c.shape.planes + c.plane) (s.page c.handle).extents =
        some q ∧
      s.presentProof = (s.updateSched fun x => { x with proofReq := some q }).grantNext := by
  unfold State.presentProof
  split
  · exact .inl rfl
  · next c hc =>
    split
    · next work hw =>
      split
      · exact .inl rfl
      · next h =>
        split
        · exact .inl rfl
        · next q hq =>
          exact .inr ⟨c, work, q, hc, hw, by simpa using (not_or.1 h).1, by simpa using (not_or.1 h).2, hq, rfl⟩
    · exact .inl rfl

/-! ## Rest control -/

/-- The drain's completion completes rest entry, and nothing else happens (R161, R191). -/
theorem State.checkDrain_cases (s : State) :
    (s.sched.drain = true ∧ s.sched.debt ≤ 0 ∧ s.sched.grant = none ∧ s.checkDrain = s.completeRest) ∨
    (¬(s.sched.drain = true ∧ s.sched.debt ≤ 0 ∧ s.sched.grant = none) ∧ s.checkDrain = s) := by
  unfold State.checkDrain
  split
  · next h => exact .inl ⟨h.1, h.2.1, h.2.2, rfl⟩
  · next h => exact .inr ⟨h, rfl⟩

end Sys2Proof.Machine
end

