-- ==== Sys2Proof/Tests/Slice0.lean ====
section
/-! SUPPORT. Tests of single commands on small states, with expected results from the worked figures and the
rules of spec/, the smoke test of WellFormed, and for each statement a state that meets its hypotheses. -/

namespace Sys2Proof.Tests

open Sys2Proof.Machine

/-! ## WellFormed refuses what cannot reach the part -/

theorem test_wf_line_block_short : (Instr.lineBlock .compose ⟨0, 0, 0, 0, 2, [7], 0⟩).wellFormed = false := by
  decide
theorem test_wf_line_block_draft_odd : (Instr.lineBlock .press ⟨0, 1, 0, 0, 3, [7, 8], 0⟩).wellFormed = true := by
  decide
theorem test_wf_unknown_code_known : (Instr.unknownCommand .proof 0x2A).wellFormed = false := by decide
theorem test_wf_stray_byte_is_mark : (Instr.strayByte .press 0x96).wellFormed = false := by decide
theorem test_wf_change_outside_store :
    (Instr.transferCompletion ⟨[(2147483648, 0)], []⟩).wellFormed = false := by decide
theorem test_wf_change_data_in_index_region :
    (Instr.transferCompletion ⟨[(25165823, 0)], []⟩).wellFormed = false := by decide
theorem test_wf_change_entry_off_eight :
    (Instr.transferCompletion ⟨[], [(4, default)]⟩).wellFormed = false := by decide
theorem test_wf_sensor_no_ratio : (Instr.thermalReading ⟨20, 0⟩).wellFormed = false := by decide

/-! ## Small states -/

def portIn (st : PortState) : PortRec := { PortRec.reset with state := st }

/-- Every link up, every port IDLE. -/
def up : State :=
  { State.reset with compose := portIn .idle, press := portIn .idle, proof := portIn .idle }

/-- A page of 16 × 16, one plane, two bands, stored in extent 384. -/
def sealedPage : PageRecord :=
  { PageRecord.free with
    state := .sealed, planes := 1, width := 16, height := 16, bandHeight := 8, committed := 2
    streamLength := 40, extents := [384] }

/-- Page 5 SEALED, everything idle, the rest of the store free. -/
def one : State := { up.setPage 5 sealedPage with freeSet := [⟨385, 32767⟩], freeRecords := 255 }

/-- Page 5 queued once. -/
def queued : State :=
  { one.setPage 5 { sealedPage with references := 1 } with queue := [5] }

def fillingPage : PageRecord :=
  { sealedPage with state := .filling, committed := 0, streamLength := 0, extents := [] }

def work (phase : EncoderPhase) : EncoderWork :=
  { phase := phase, handle := 5, expected := some 0, stagedLines := 0, staging := [], output := []
    coding := none, deferred := none }

/-- Page 5 FILLING at position 0, the Compose port INBOUND. -/
def composing (phase : EncoderPhase) : State :=
  { one.setPage 5 fillingPage with compose := portIn .inbound, encoder := some (work phase) }

def shape : Shape := sealedPage.shape

/-- A delivery of page 5 with its lead margin of one line outstanding. -/
def delivery : Delivery :=
  { handle := 5, shape := shape, startBand := 0, lead := 1, trail := 1, window := 5, phase := .lead
    next := some ⟨.page, 0, 0⟩, outstanding := some ⟨.lead, 0, 0⟩, firstNotComplete := 0
    timer := .running }

def channel : PressChannel :=
  { handle := 5, shape := shape, startBand := 0, nextBand := 2, stopBand := none
    bufferA := .decoding 0 0 Decoding.initial [], bufferB := .decoding 1 0 Decoding.initial [] }

def delivering : State :=
  { queued with
    press := portIn .outbound, delivering := true, delivery := some delivery
    pressChannel := some channel }

def view : ViewRecord :=
  { handle := 5, shape := shape, planeMask := [0], firstBand := 0, endBand := 2, decimation := 4
    depth := .draft4, next := some ⟨0, 0, 4⟩, outstanding := some ⟨0, 0, 0⟩, firstNotSent := 0 }

def proofChannel : ProofChannel :=
  { handle := 5, shape := shape, planeMask := [0], firstBand := 0, bandCount := 2, decimation := 4
    band := 0, plane := 0, buffer := .sending (List.replicate 128 0x5A) }

def viewing : State :=
  { queued with
    proof := portIn .outbound, view := some view, proofChannel := some proofChannel }

/-- `s` with the store performing this operation. -/
def granted (s : State) (g : Grant) : State := { s with sched := { s.sched with grant := some g } }

/-- The youngest frame of a port after a command. -/
def frameAfter (p : Port) : Host.Outcome State Fault Refusal → Option Frame
  | .next t => (t.port p).transmit.getLast?
  | _ => none

/-- A property of the next state. -/
def after (o : Host.Outcome State Fault Refusal) (f : State → Bool) : Bool :=
  match o with
  | .next t => f t
  | _ => false

/-! ## The band code against the worked figures of spec/03_band_coding.md -/

theorem test_code_worked_case :
    codedBytes (encodeRows 0 8 [[200, 200, 200, 203], [201, 199, 200, 204]]).2 =
      [0x1F, 0xFF, 0xE9, 0x08, 0x0C, 0x02, 0x69, 0x00] := by decide +kernel
theorem test_code_worked_check :
    crc16 [0x1F, 0xFF, 0xE9, 0x08, 0x0C, 0x02, 0x69, 0x00] = 0x212E := by decide +kernel
theorem test_code_worked_tolerance :
    (encodeRows 2 6 [[48, 49, 47, 50, 57, 58]]).2.length = 25 ∧
      (encodeRows 2 6 [[48, 49, 47, 50, 57, 58]]).1.above = [48, 48, 48, 48, 58, 58] := by decide +kernel
theorem test_decode_worked_case :
    decodeStored ⟨4, 2, 0⟩ ⟨251, 8, .coded, 0x212E⟩ [[0x1F, 0xFF, 0xE9, 0x08, 0x0C], [0x02, 0x69, 0x00]] =
      some (.verified [200, 200, 200, 203, 201, 199, 200, 204]) := by decide +kernel
theorem test_decode_waits_for_last_unit :
    decodeStored ⟨4, 2, 0⟩ ⟨251, 8, .coded, 0x212E⟩ [[0x1F, 0xFF, 0xE9, 0x08, 0x0C]] = none := by
  decide +kernel
theorem test_decode_changed_byte_is_damage :
    decodeStored ⟨4, 2, 0⟩ ⟨0, 8, .coded, 0x212E⟩ [[0x1F, 0xFF, 0xE9, 0x08, 0x0C, 0x02, 0x69, 0x40]] =
      some .damage := by decide +kernel
theorem test_decode_short_entry_is_malformed :
    decodeStored ⟨4, 2, 0⟩ ⟨0, 7, .coded, 0⟩ [[0x1F, 0xFF, 0xE9, 0x08, 0x0C, 0x02, 0x69]] =
      some .damage := by decide +kernel
theorem test_draft4_figures : packDraft4 [0, 17, 255, 200, 9] = [0x01, 0xFC, 0x00] := by decide
theorem test_view_sample_count : viewSamples 5001 2 = 2501 ∧ viewSamples 9000 4 = 2250 := by decide

/-! ## Frames -/

theorem test_status_frame :
    Decode.commandFrame .press
        [0xC3, 0x01, 0, 0, 0, 0, 0, 0, 0, 0, 0, 0, 0x1F, 0x3C] = .status .press := by decide +kernel
theorem test_open_page_field :
    Decode.readOpen .compose [0xC3, 0x10, 0x2A, 0x46, 16, 0x25, 0x80, 0x01, 0, 0x01, 0x23, 0x45] =
      .openPage .compose ⟨0x2A, .volatile, 6, 16, 0x2580, 0x0100, 0x012345⟩ := by decide
theorem test_continue_field :
    Decode.readOpen .compose [0xC3, 0x10, 0x2A, 0x80] = .openPageContinue .compose 0x2A := by decide
theorem test_end_notice_bytes :
    (Frame.endNotice .damaged 30 2).bytes.take 5 = [0x69, 4, 30, 0, 2] := by decide +kernel
theorem test_token_bytes : (Frame.token .rejectFull).bytes = [0x96, 4] := by decide

/-! ## Commands, one step each -/

theorem test_status_clears_flags :
    after (exec (.status .press) { up with press := { portIn .idle with stray := true } })
      (fun t => !t.press.stray && t.press.outstanding == some 0x01) = true := by decide
theorem test_query_free_page :
    frameAfter .compose (exec (.queryPage .compose 4 0) one) =
      some (.reply 0x02 .noPage .idle []) := by decide
theorem test_list_stops_at_255 :
    frameAfter .press (exec (.listPages .press 254 256) one) =
      some (.reply 0x03 .ok .idle [0, 2, 254, 0, 0, 255, 0, 0]) := by decide
theorem test_open_lowest_free :
    frameAfter .compose (exec (.openPage .compose ⟨0xFF, .keep, 1, 8, 16, 16, 0⟩)
      (up.setPage 0 sealedPage)) = some (.reply 0x10 .ok .inbound [1]) := by decide
theorem test_open_width_15 :
    frameAfter .compose (exec (.openPage .compose ⟨4, .keep, 1, 8, 15, 16, 0⟩) up) =
      some (.reply 0x10 .param .idle []) := by decide
theorem test_continue_held_page :
    frameAfter .compose (exec (.openPageContinue .compose 5)
      (up.setPage 5 { sealedPage with state := .torn, holdReason := some 7 })) =
      some (.reply 0x10 .held .idle []) := by decide
theorem test_seal_incomplete :
    frameAfter .compose (exec (.sealPage .compose) (composing .ready)) =
      some (.reply 0x11 .incomplete .inbound []) := by decide
theorem test_abandon_frees :
    after (exec (.abandonPage .compose) (composing .ready))
      (fun t => (t.page 5).state == .free && t.compose.state == .idle) = true := by decide
theorem test_enqueue_two :
    frameAfter .compose (exec (.enqueue .compose 5 2) queued) =
      some (.reply 0x18 .ok .idle [3]) := by decide
theorem test_enqueue_full_appends_none :
    after (exec (.enqueue .compose 5 2) { queued with queue := List.replicate 63 5 })
      (fun t => t.queue.length == 63) = true := by decide
theorem test_rebind_spares_marked_head :
    after (exec (.rebind .compose 5 6)
        { (delivering.setPage 5 { sealedPage with references := 3 }).setPage 6 sealedPage with
          queue := [5, 5, 5] })
      (fun t => t.queue == [5, 6, 6] && (t.page 6).references == 2 && (t.page 5).references == 1) =
      true := by decide
theorem test_release_range :
    frameAfter .compose (exec (.release .compose 4 6) (one.setPage 6 { sealedPage with holdReason := some 1 })) =
      some (.reply 0x1A .partialRelease .idle [0, 1, 0, 0, 0, 0, 0, 1]) := by decide
theorem test_peek_empty :
    frameAfter .press (exec (.peekQueue .press) one) = some (.reply 0x1B .ok .idle [0, 0]) := by decide
theorem test_start_sends_lead :
    frameAfter .press (exec (.start .press 0 1 0 0) queued) =
      some (.block .margin .full 0 0 16 (List.replicate 16 0)) := by decide
theorem test_start_at_band_count :
    frameAfter .press (exec (.start .press 2 0 0 0) queued) =
      some (.reply 0x20 .param .idle []) := by decide
theorem test_skip_frees_pending :
    after (exec (.skip .press)
        (queued.setPage 5 { sealedPage with references := 1, releasePending := true }))
      (fun t => t.queue == [] && (t.page 5).state == .free && t.freeSet == [⟨384, 32767⟩]) = true := by
  decide
theorem test_stop_owes_late_token :
    after (exec (.stop .press) delivering)
      (fun t => t.pressLate && t.press.transmit == [.endNotice .stopped 5 0, .reply 0x22 .ok .idle []]) =
      true := by decide
theorem test_view_clamped_at_damage :
    frameAfter .proof (exec (.view .proof ⟨5, 1, 0, 2048, 4, 1⟩)
        (up.setPage 5 { sealedPage with state := .damaged, firstDamaged := some 1 })) =
      some (.reply 0x28 .ok .outbound [5, 1, 0, 16, 0, 16, 8, 0, 0, 0, 1, 4, 1, 0, 4]) := by decide
theorem test_view_damaged_at_zero :
    frameAfter .proof (exec (.view .proof ⟨5, 1, 0, 1, 1, 0⟩)
        (up.setPage 5 { sealedPage with state := .damaged, firstDamaged := some 0 })) =
      some (.reply 0x28 .state .idle []) := by decide
theorem test_hold_free_page :
    frameAfter .proof (exec (.hold .proof 9 1) up) = some (.reply 0x29 .state .idle []) := by decide
theorem test_lift_free_page :
    frameAfter .proof (exec (.lift .proof 9) up) = some (.reply 0x2A .ok .idle []) := by decide
theorem test_last_port_rests :
    after (exec (.rest .press) { up with compose := portIn .down, proof := portIn .resting,
                                         sched := { Scheduler.reset with debt := 1 } })
      (fun t => t.mode == .enteringRest && t.sched.drain) = true := by decide
theorem test_rest_keeps_segment_0 :
    after (exec (.rest .press) { up with compose := portIn .down, proof := portIn .down })
      (fun t => t.mode == .retained && t.undefinedDraws == #v[0, 1, 1, 1, 1, 1, 1, 1]) = true := by
  decide +kernel
theorem test_wake_withdraws_drain :
    after (exec (.wake .press)
        { granted up .refresh with
          press := portIn .resting, mode := .enteringRest })
      (fun t => t.mode == .active && !t.sched.drain && t.press.state == .idle) = true := by decide
theorem test_unknown_code_echoed :
    frameAfter .press (exec (.unknownCommand .press 0x7F) up) =
      some (.reply 0x7F .illegal .idle []) := by decide
theorem test_frame_check_not_answered :
    after (exec (.frameCheckFailure .press) up) (fun t => t.press.frameCheck && t.press.transmit == []) =
      true := by decide
theorem test_line_block_bad_crc :
    frameAfter .compose (exec (.lineBlock .compose ⟨0, 0, 0, 0, 16, List.replicate 16 9, 0⟩)
      (composing .ready)) = some (.token .rejectCheck) := by decide +kernel
theorem test_line_block_at_press :
    after (exec (.lineBlock .press ⟨0, 0, 0, 0, 0, [], 0⟩) delivering)
      (fun t => t.press.stray && t.press.transmit == [.token .rejectOrder]) = true := by decide
theorem test_token_rejects_in_lead :
    after (exec (.blockToken .press 3) delivering)
      (fun t => t.press.transmit == [.endNotice .rejected 5 0] && !t.pressLate) = true := by decide
theorem test_token_accept_sends_next_line :
    frameAfter .proof (exec (.blockToken .proof 1) viewing) =
      some (.block .page .draft4 0 4 4 [0x55, 0x55]) := by decide +kernel
theorem test_stray_byte_sets_stray : after (exec (.strayByte .proof 0) up) (·.proof.stray) = true := by
  decide
theorem test_link_up_from_down :
    after (exec (.linkUp .press) State.reset) (fun t => t.press.state == .idle) = true := by decide
theorem test_link_loss_tears :
    after (exec (.linkLoss .compose) (composing .ready))
      (fun t => (t.page 5).state == .torn && t.encoder == none && t.compose.state == .down) = true := by
  decide
theorem test_device_reset_empties_queue :
    after (exec .deviceReset delivering)
      (fun t => t.queue == [] && (t.page 5).state == .sealed && (t.page 5).references == 0 &&
        t.press.transmit == []) = true := by decide +kernel
theorem test_power_on_frees_pages :
    after (exec .powerOnReset delivering) (fun t => (t.page 5).state == .free) = true := by decide
theorem test_line_coding_end_accepts :
    frameAfter .compose (exec .lineCodingEnd (composing .lineCoding)) = some (.token .accept) := by
  decide +kernel
theorem test_extent_take_refused :
    frameAfter .compose (exec .extentTake
        { composing (.committing .finishing) with
          freeSet := []
          encoder := some { work (.committing .finishing) with
            stagedLines := 8, staging := List.replicate 128 0, coding := some Coding.initial } }) =
      some (.token .rejectFull) := by decide +kernel
theorem test_transfer_without_unit :
    exec (.transferCompletion ⟨[], []⟩) (granted up (.press ⟨.press .a, none, .entry 0⟩ true)) =
      .fault .absentStoreUnit := rfl
theorem test_read_waits_for_discarded_one :
    (granted delivering (.press ⟨.press .b, some ⟨384, 0⟩, .entry 0⟩ false)).presentPress.sched.pressReq =
      none := by decide
theorem test_discarded_read_lets_next_go :
    after (exec (.transferCompletion ⟨[], []⟩)
        (granted delivering (.press ⟨.press .b, some ⟨384, 0⟩, .entry 0⟩ false)))
      (fun t => t.sched.grant == some (.press ⟨.press .a, some ⟨7, 128⟩, .entry 0⟩ true)) = true := by
  decide
theorem test_refresh_completion_serves_press_first :
    after (exec .refreshCompletion
        { up with sched := { Scheduler.reset with
          grant := some .refresh, debt := 7, pressReq := some ⟨.press .a, none, .entry 0⟩ } })
      (fun t => t.sched.grant == some (.press ⟨.press .a, none, .entry 0⟩ true)) = true := by decide
theorem test_plane_band_raw_verified :
    after (exec (.planeBandDecoded .proof)
        { viewing with
          view := some { view with outstanding := none, next := some ⟨0, 0, 0⟩ }
          proofChannel := some { proofChannel with
            buffer := .decoding { Decoding.initial with
              entry := some ⟨0, 128, .raw, 0xFFFF⟩, unitsRead := 1, samples := List.replicate 128 1 } } })
      (fun t => t.proof.transmit == [.block .page .draft4 0 0 4 [0, 0]]) = true := by decide +kernel
theorem test_refresh_missed_at_eight :
    after (exec .refreshTimerExpiry
        { granted up .refresh with sched := { Scheduler.reset with grant := some .refresh, debt := 8 } })
      (fun t => t.sched.refreshMissed && t.sched.debt == 8) = true := by decide
theorem test_window_expiry_underrun :
    after (exec .bandWindowExpiry delivering)
      (fun t => t.press.transmit == [.endNotice .underrun 5 0] && t.queue == [5]) = true := by decide
theorem test_reading_half_rounds_up :
    after (exec (.thermalReading ⟨169, 2⟩) up) (fun t => t.lastReading == some 85 && t.thermal == .warm) =
      true := by decide
theorem test_hot_holds_at_103 :
    after (exec (.thermalReading ⟨103, 1⟩) { up with lastReading := some 110, thermal := .hot })
      (fun t => t.thermal == .hot) = true := by decide
theorem test_sent_reply_clears_outstanding :
    after (exec (.frameSent .press)
        { up with press := { portIn .idle with
          outstanding := some 1, transmit := [.reply 1 .ok .idle []] } })
      (fun t => t.press.outstanding == none) = true := by decide

/-! ## Each statement's hypotheses are met -/

/-- An encoder with the first line of position 0 just taken. -/
def staged (phase : EncoderPhase) (lines : Nat) : State :=
  { composing phase with
    encoder := some { work phase with
      stagedLines := lines, staging := List.replicate (16 * lines) 9, coding := some Coding.initial } }

/-- A commit of 30 stored bytes at stream offset 0, with this many writes to come. -/
def outcome (remaining : Nat) : CommitOutcome := ⟨.raw, 30, 0, 0, [385], remaining⟩

def write : WriteReq := ⟨some ⟨385, 0⟩, 0, .bytes [1, 2]⟩

/-- R33, R35: a plane-band at stream offset 250 begins at byte 250 of the unit it shares with the one before
it; 6 of its bytes go there and the rest from byte 0 of the next unit. -/
theorem test_commit_begins_in_a_shared_unit :
    let put := fun n => commitWrite { work .ready with staging := List.replicate 30 9 }
      { outcome n with offset := 250 } { fillingPage with extents := [385] }
    put 3 = some ⟨some ⟨385, 0⟩, 250, .bytes (List.replicate 6 9)⟩ ∧
      put 2 = some ⟨some ⟨385, 1⟩, 0, .bytes (List.replicate 24 9)⟩ := by decide

/-- A commit's write granted. -/
def writing (remaining : Nat) : State :=
  granted (composing (.committing (.writing (outcome remaining)))) (.encoder write true)

def read (slot : DecodeSlot) (t : ReadTarget) : ReadReq := ⟨slot, some ⟨384, 0⟩, t⟩

def entry : IndexEntry := ⟨0, 20, .coded, 0⟩

def entered : Decoding := { Decoding.initial with entry := some entry }

def sendingChannel : PressChannel :=
  { channel with bufferA := .sending 0 [List.replicate 128 7], bufferB := .ready 1 [List.replicate 128 8] }

/-- A commit in its first stage, the seven lines before the last coded, with this grant in progress and
this free set. -/
def finishing (g : Option Grant) (f : List Span) : State :=
  let x := encodeRows 0 128 (stagedRows 16 7 (List.replicate 128 9))
  let s := composing (.committing .finishing)
  { s with
    freeSet := f
    sched := { s.sched with grant := g }
    encoder := some { work (.committing .finishing) with
      stagedLines := 8, staging := List.replicate 128 9, coding := some x.1, output := x.2 } }

theorem witness_CommandFramesJudgedInOrder :
    (Instr.rest .press).commandFrame = some (.press, .rest) ∧ (State.reset.port .press).state = .down ∧
      (up.press.state ≠ .down ∧ { portIn .idle with outstanding := some 1 }.outstanding ≠ none) ∧
      (delivering.press.state ≠ .down ∧ delivering.press.outstanding = none ∧
        Cmd.rest.allowed .press delivering.press.state = false) := by decide
theorem witness_BadTrafficSetsOnlyFlags : (up.port .press).state ≠ .down := by decide
theorem witness_StatusReportsAndClearsFlags :
    (up.port .press).state ≠ .down ∧ (up.port .press).outstanding = none := by decide
theorem witness_FrameSentRemovesOldest :
    ({ portIn .idle with transmit := [.reply 1 .ok .idle [], .token .accept] }).transmit =
      .reply 1 .ok .idle [] :: [.token .accept] ∧ PortState.resting ≠ .down := ⟨rfl, by decide⟩
theorem witness_QueryPageReportsRecord :
    (one.port .compose).state ≠ .down ∧ (one.port .compose).outstanding = none ∧
      (one.page 5).state ≠ .free ∧ (one.page 4).state = .free := by decide
theorem witness_ListPagesReportsRecords :
    (one.port .proof).state ≠ .down ∧ (one.port .proof).outstanding = none := by decide
theorem witness_HoldSetsReason : up.takes .proof .hold := by unfold State.takes; decide
theorem witness_LiftClearsReason :
    up.takes .proof .lift ∧ (one.page 5).holdReason = none ∧ Port.press ≠ .proof := by
  unfold State.takes; decide
theorem witness_ReleaseTreatsTheRange :
    one.takes .compose .release ∧ one.FreeSetWf ∧ (4#8).toNat < (5#8).toNat ∧
      (5#8).toNat ≤ (5#8).toNat := by unfold State.takes State.FreeSetWf; decide
theorem witness_LastReferenceFreesPendingPage :
    let pending := queued.setPage 5 { sealedPage with references := 1, releasePending := true }
    queued.FreeSetWf ∧ 0 < 1 ∧ 1 ≤ (queued.page 5).references ∧ (queued.page 5).releasePending = false ∧
      pending.FreeSetWf ∧ (pending.page 5).releasePending = true ∧ (pending.page 5).references = 1 := by
  unfold State.FreeSetWf; decide
theorem witness_OpenPageOpensOrRefuses :
    up.takes .compose .openPage ∧ ¬ (OpenParams.mk 4 .keep 0 8 16 16 0).InRange ∧
      (OpenParams.mk 5 .keep 6 16 5461 16384 0x777777).InRange ∧ (one.page 5).state ≠ .free ∧
      (one.page 4).state = .free ∧ (OpenParams.mk 0xFF .keep 1 8 16 16 0).InRange ∧
      (∀ g : Handle, g.toNat < (0#8).toNat → (one.page g).state ≠ .free) := by
  refine ⟨by unfold State.takes; decide, by unfold OpenParams.InRange; decide,
    by unfold OpenParams.InRange; decide, by decide, by decide,
    by unfold OpenParams.InRange; decide, fun g h => absurd h (by simp)⟩
theorem witness_OpenPageFull :
    let full := { up with pages := Vector.replicate 256 sealedPage }
    full.takes .compose .openPage ∧ ∀ h, (full.page h).state ≠ .free := by
  refine ⟨by unfold State.takes; decide, fun h => ?_⟩
  simp [State.page, sealedPage]
theorem witness_ContinuePageResumes : up.takes .compose .openPage := by unfold State.takes; decide
theorem witness_SealPageByEncoderState :
    (composing .complete).takes .compose .sealPage ∧
      (composing .complete).encoder = some (work .complete) := by unfold State.takes; decide
theorem witness_AbandonPageByEncoderState :
    (composing .lineCoding).takes .compose .abandonPage ∧
      (composing .lineCoding).encoder = some (work .lineCoding) ∧ one.FreeSetWf := by
  unfold State.takes State.FreeSetWf; decide
theorem witness_StrayLineBlocks :
    (delivering.port .press).state ≠ .down ∧ Port.press ≠ .compose ∧ up.compose.state ≠ .inbound ∧
      (composing .lineCoding).compose.state = .inbound ∧
      ((composing .lineCoding).encoder.any fun w => w.phase.isCommitting || w.phase == .lineCoding) := by
  decide
theorem witness_ComposeLineBlockJudged :
    (composing .ready).compose.state = .inbound ∧ (composing .ready).encoder = some (work .ready) ∧
      ((work .ready).phase = .ready ∨ (work .ready).phase = .complete) ∧
      0 < shape.bandHeight ∧ 0 < shape.height ∧ 0 + 1 < shape.bands ∧ 1 + 1 = shape.bands := by decide
theorem witness_LineCodingEndAccepts :
    (staged .lineCoding 1).compose.state = .inbound ∧
      (∃ w, (staged .lineCoding 1).encoder = some w ∧ w.phase = .lineCoding ∧ w.deferred = none) ∧
      (∃ w, ({ composing .lineCoding with
          encoder := some { work .lineCoding with deferred := some .abandonPage } }).encoder = some w ∧
        w.phase = .lineCoding ∧ w.deferred = some .abandonPage) :=
  ⟨rfl, ⟨_, rfl, rfl, rfl⟩, ⟨_, rfl, rfl, rfl⟩⟩
theorem finishing_kept (g : Option Grant) (f : List Span) : (finishing g f).EncoderKept := by
  intro w h
  cases h
  have page : (finishing g f).page 5 = fillingPage := by
    simp [finishing, composing, State.page, State.setPage]
  show EncoderWork.Kept _ ((finishing g f).page 5).shape ((finishing g f).page 5).streamLength
  rw [page]
  exact ⟨List.length_replicate, by decide, rfl, rfl, rfl⟩
theorem witness_ExtentTakeGranted :
    let s := finishing none [⟨385, 32767⟩]
    s.compose.state = .inbound ∧ s.FreeSetWf ∧ s.EncoderKept ∧ s.sched.encoderReq = none ∧
      (∃ w, s.encoder = some w ∧ w.phase = .committing .finishing) ∧
      (takeExtents .keep 1 s.freeSet).isSome := by
  refine ⟨rfl, by unfold State.FreeSetWf; decide, finishing_kept _ _, rfl, ⟨_, rfl, rfl⟩, rfl⟩
theorem witness_ExtentTakeBehindGivenUpWrite :
    let s := finishing (some (.encoder write false)) [⟨385, 32767⟩]
    s.sched.grant = some (.encoder write false) ∧ s.EncoderKept ∧ s.sched.encoderReq = none :=
  ⟨rfl, finishing_kept _ _, rfl⟩
theorem witness_ExtentTakeRefused :
    let s := finishing none []
    s.FreeSetWf ∧ s.EncoderKept ∧ freeCount s.freeSet < 1 ∧
      (s.page 5).committed ≠ (s.page 5).shape.bands * (s.page 5).shape.planes := by
  refine ⟨by unfold State.FreeSetWf; decide, finishing_kept _ _, by decide, by decide⟩
theorem witness_CommitWritesInOrder :
    (writing 2).sched.grant = some (.encoder write true) ∧ write.addr = some ⟨385, 0⟩ ∧
      UnitAddr.present ⟨385, 0⟩ = true ∧
      (writing 2).encoder = some (work (.committing (.writing (outcome 2)))) ∧
      (writing 1).encoder = some (work (.committing (.writing (outcome 1)))) ∧
      (writing 2).sched.encoderReq = none ∧ (writing 2).compose.state = .inbound ∧
      2 ≤ (outcome 2).writesRemaining ∧ (outcome 1).writesRemaining = 1 := by decide
theorem witness_FreeSetGivesAndTakesBack :
    spansWf [⟨384, 385⟩, ⟨387, 387⟩] ∧ freeCount [⟨384, 385⟩, ⟨387, 387⟩] < 4 ∧
      takeExtents .keep 3 [⟨384, 385⟩, ⟨387, 387⟩] = some ([384, 385, 387], []) ∧
      takeExtents .volatile 2 [⟨384, 385⟩, ⟨387, 387⟩] = some ([387, 385], [⟨384, 384⟩]) ∧
      [386].Nodup ∧ (∀ e ∈ [386], isFree [⟨384, 385⟩, ⟨387, 387⟩] e = false) := by decide
theorem witness_WriteChangesOnlyItsRange : (Memory.mk [(25165824, 1)] [(0, default)]).wf := by decide
theorem witness_TransfersWithNoOneWaiting :
    (granted up (.encoder write false)).sched.grant = some (.encoder write false) ∧
      UnitAddr.present ⟨385, 0⟩ = true ∧ write.addr = some ⟨385, 0⟩ ∧
      (granted up (.proof (read .proof (.entry 0)) false)).sched.grant =
        some (.proof (read .proof (.entry 0)) false) ∧
      (granted up (.press (read (.press .a) (.entry 0)) false)).sched.grant =
        some (.press (read (.press .a) (.entry 0)) false) ∧
      up.encoder = none ∧ (writing 2).encoder = some (work (.committing (.writing (outcome 2)))) ∧
      (writing 2).sched.encoderReq = none ∧
      UnitAddr.present ⟨32768, 0⟩ = false ∧ UnitAddr.present ⟨32767, 255⟩ = true ∧
      up.sched.grant = none := by decide
theorem witness_PressReadFeedsPlaneBand :
    let s := granted delivering (.press (read (.press .a) (.bytes 0 20)) true)
    s.sched.grant = some (.press (read (.press .a) (.bytes 0 20)) true) ∧
      (read (.press .a) (.bytes 0 20)).slot = .press .a ∧
      (read (.press .a) (.bytes 0 20)).addr = some ⟨384, 0⟩ ∧ UnitAddr.present ⟨384, 0⟩ = true ∧
      s.pressChannel = some channel ∧ s.delivery = some delivery ∧ s.press.state = .outbound ∧
      channel.buffer .a = .decoding 0 0 Decoding.initial [] ∧ entered.entry = some entry := by decide
theorem witness_PressReadEntry :
    soundEntry entry (16 * 8) 40 ∧ ¬ soundEntry entry (16 * 8) 19 ∧
      (read (.press .b) (.entry 8)).target = .entry 8 := by
  refine ⟨by unfold soundEntry; decide, by unfold soundEntry; decide, rfl⟩
theorem witness_ProofReadFeedsPlaneBand :
    let c := { proofChannel with buffer := .decoding entered }
    let s := { granted viewing (.proof (read .proof (.bytes 0 20)) true) with proofChannel := some c }
    s.sched.grant = some (.proof (read .proof (.bytes 0 20)) true) ∧
      (read .proof (.bytes 0 20)).addr = some ⟨384, 0⟩ ∧ s.proofChannel = some c ∧
      s.view = some view ∧ s.proof.state = .outbound ∧ c.buffer = .decoding entered ∧
      entered.entry = some entry := by decide
theorem witness_PlaneBandDecodedByVerdict :
    delivering.pressChannel = some channel ∧ delivering.delivery = some delivery ∧
      delivering.press.state = .outbound ∧ channel.buffer .b = .decoding 1 0 Decoding.initial [] ∧
      viewing.view = some view ∧ viewing.proof.state = .outbound := by decide
theorem witness_ReadsPresentedInOrder :
    delivering.pressChannel = some channel ∧ BufferId.a ≠ .b ∧ (channel.buffer .a).band = some 0 ∧
      (channel.buffer .b).band = some 1 ∧ delivering.sched.pressReq = none ∧
      (Decoding.initial.nextRead (.press .a) 5 0 [384]).isSome ∧
      Decoding.nextRead { entered with unitsRead := 1 } (.press .a) 5 0 [384] = none ∧
      viewing.proofChannel = some proofChannel ∧ viewing.sched.proofReq = none := by decide
theorem witness_VerifiedNeedsEveryByteAndCheck :
    entered.entry = some entry ∧
      ({ Decoding.initial with
          entry := some ⟨0, 2, .raw, 0xFFFF⟩, unitsRead := 1, samples := [1, 2] }).verdict ⟨2, 1, 0⟩ =
        some (.verified [1, 2]) ∧
      ({ entered with malformed := true }).verdict ⟨16, 8, 0⟩ = some .damage ∧
      Decoding.initial.malformed = false ∧ Decoding.initial.coding.row < 8 ∧
      readWord 15 (riceRun Decoding.initial.coding.run) [false, true, true] = some (3, 3, []) ∧
      readWord 15 (riceRun Decoding.initial.coding.run) [] = none := by decide
theorem witness_PressBlockSentWhenAvailable :
    delivering.press.state = .outbound ∧ delivering.pressChannel = some channel ∧
      channel.shape = delivery.shape ∧ delivery.next = some ⟨.page, 0, 0⟩ ∧
      delivery.outstanding ≠ none ∧ ({ delivery with outstanding := none }).outstanding = none ∧
      delivering.pressLate = false ∧ sendingChannel.buffer .a = .sending (0 / 8) [List.replicate 128 7] ∧
      (∀ j, j ≠ BufferId.a → (sendingChannel.buffer j).band ≠ some (0 / 8)) ∧
      (∀ k planes, channel.buffer k ≠ .sending (0 / 8) planes) := by
  refine ⟨rfl, rfl, rfl, rfl, by decide, rfl, rfl, rfl, fun j h => ?_, fun k planes => ?_⟩
  · cases j
    · exact absurd rfl h
    · decide
  · cases k <;> simp [channel, PressChannel.buffer]
theorem witness_ViewBlockSentWhenAvailable :
    viewing.proof.state = .outbound ∧ viewing.view = some view ∧
      viewing.proofChannel = some proofChannel ∧ view.next = some ⟨0, 0, 4⟩ ∧ view.outstanding ≠ none ∧
      proofChannel.buffer = .sending (List.replicate 128 0x5A) ∧
      (proofChannel.band, proofChannel.plane) = (0, 0) ∧ viewing.proofLate = false ∧
      [1#8, 2, 3].length % 2 = 1 := by decide
theorem witness_BlocksFollowInOrder :
    0 < shape.planes ∧ 1 * shape.bandHeight < shape.height ∧ view.planeMask.Pairwise (· < ·) ∧
      view.planeMask ≠ [] ∧ view.decimation = 4 ∧ view.shape.bandHeight = 8 ∧
      view.firstBand < view.endBand ∧ view.endBand ≤ view.shape.bands ∧ 0 < view.shape.height := by decide
theorem witness_EnqueueAppendsCopies : queued.takes .compose .enqueue := by unfold State.takes; decide
theorem witness_RebindMovesEntries : queued.takes .compose .rebind := by unfold State.takes; decide
theorem witness_SkipInOutbound :
    delivering.press.state = .outbound ∧ delivering.press.outstanding = none := by decide
theorem witness_SkipAndPeekQueue :
    up.takes .press .skip ∧ up.queue = [] ∧ queued.takes .press .skip ∧ queued.queue = 5 :: [] ∧
      delivering.takes .press .peekQueue := by unfold State.takes; decide
theorem witness_StartBeginsDelivery :
    up.takes .press .start ∧ up.queue = [] ∧ queued.takes .press .start ∧ queued.queue = 5 :: [] := by
  unfold State.takes; decide
theorem witness_StopAndExpiryEndDelivery :
    delivering.takes .press .stop ∧ delivering.delivery = some delivery ∧ viewing.takes .proof .stop ∧
      viewing.view = some view ∧ delivering.press.state = .outbound ∧ delivery.timer = .running := by
  unfold State.takes; decide
theorem witness_BandCompletionTurnsBuffers :
    BufferId.a ≠ .b ∧ sendingChannel.buffer .a = .sending 0 [List.replicate 128 7] ∧
      sendingChannel.buffer .b ≠ .empty ∧ (∀ n ps, sendingChannel.buffer .b ≠ .sending n ps) ∧
      ({ delivery with phase := .page }).phase ≠ .lead ∧
      sendingChannel.buffer .b = .ready 1 [List.replicate 128 8] := by
  refine ⟨by decide, rfl, by decide, fun n ps => ?_, by decide, rfl⟩
  simp [sendingChannel, PressChannel.buffer]
theorem witness_BandCompletionEmptyOther :
    let c := { sendingChannel with bufferB := .empty }
    c.buffer .a = .sending 0 [List.replicate 128 7] ∧ c.buffer .b = .empty ∧ ¬ (2 < shape.bands) ∧
      (∀ n ps, c.buffer .b ≠ .sending n ps) := by
  refine ⟨rfl, rfl, by decide, fun n ps => ?_⟩
  simp [PressChannel.buffer]
theorem witness_PressTokenAnswersBlock :
    delivering.press.state ≠ .down ∧ delivering.pressLate = false ∧
      delivering.delivery = some delivery ∧ delivery.outstanding = some ⟨.lead, 0, 0⟩ ∧
      delivering.pressChannel = some channel ∧ delivery.next ≠ none ∧ delivering.queue = 5 :: [] ∧
      ({ delivery with next := none }).next = none ∧ up.delivery = none ∧
      ({ delivering with pressLate := true }).pressLate = true := by decide
theorem witness_PressTokenEndsBand :
    let b : BlockRef := ⟨.page, 7, 0⟩
    let d := { delivery with phase := .page, next := some ⟨.page, 8, 0⟩, outstanding := some b }
    d.next ≠ none ∧ b.phase = .page ∧ b.plane + 1 = d.shape.planes ∧
      (b.line + 1) % d.shape.bandHeight = 0 ∧
      ({ sendingChannel with stopBand := some 1, bufferB := .empty }.completeBand
        { d with firstNotComplete := 1 }).stopBand = some 1 := by decide
theorem witness_ProofTokenAnswersBlock :
    up.compose.state ≠ .down ∧ viewing.proof.state ≠ .down ∧ viewing.proofLate = false ∧
      viewing.view = some view ∧ view.outstanding = some ⟨0, 0, 0⟩ ∧
      viewing.proofChannel = some proofChannel ∧ view.next ≠ none ∧
      ¬ (0 * 8 + view.shape.bandLines 0 ≤ 0 + view.decimation) ∧
      0 * 8 + view.shape.bandLines 0 ≤ 4 + view.decimation ∧
      (view.planeMask.find? fun plane => 0 < plane) = none ∧ 0 + 1 < view.endBand ∧
      ([0, 2].find? fun plane => 0 < plane) = some 2 := by decide
theorem witness_ViewBeginsOrRefuses : up.takes .proof .view := by unfold State.takes; decide
theorem witness_GrantsFollowTheOrder :
    up.sched.grant = none ∧ up.sched.selfRetention = false ∧
      (granted up .refresh).sched.grant = some .refresh ∧ up.sched.timerRunning = true := by decide
theorem witness_WritesAndReadsCoverTheStream :
    ((staged .ready 2).encoder.map fun w => (w.storedBytes .raw).length) = some 32 ∧ 0 < 32 := by decide
theorem witness_ThermalReadingSetsClass :
    0 < (2 : Nat) ∧ (2 : Int) * 85 * 2 ≤ 2 * 169 + 2 ∧ (2 : Int) * 169 + 2 < 2 * (85 + 1) * 2 := by decide
theorem witness_RestAndWakeByMode :
    up.takes .press .rest ∧ ({ up with press := portIn .resting }).takes .press .wake ∧
      (State.reset.port .press).state = .down := by unfold State.takes; decide
theorem witness_RestEntryKeepsProtectedPages :
    let s := { up with sched := { Scheduler.reset with drain := true } }
    s.sched.drain = true ∧ s.sched.debt ≤ 0 ∧ s.sched.grant = none ∧ s.FreeSetWf ∧
      ¬ (up.sched.drain = true) := by unfold State.FreeSetWf; decide
theorem witness_LinkLossDropsTheWork :
    up.compose.state ≠ .down ∧ up.encoder = none ∧ (composing .ready).compose.state ≠ .down ∧
      (composing .ready).encoder = some (work .ready) ∧ delivering.press.state ≠ .down ∧
      up.proof.state ≠ .down ∧ up.view = none ∧ up.proofChannel = none ∧
      viewing.proof.state ≠ .down ∧ viewing.view = some view := by decide
theorem witness_DeviceResetGivesUpAllWork :
    (composing .ready).FreeSetWf ∧
      ∀ w, (composing .ready).encoder = some w →
        ((composing .ready).page w.handle).releasePending = false := by
  refine ⟨by unfold State.FreeSetWf; decide, fun w h => ?_⟩
  cases h
  rfl
theorem witness_SamplesCodedWithinTolerance :
    7 ≤ 7 ∧ (0 : Int) ≤ 255 ∧ (255 : Int) ≤ 255 ∧ Coding.initial.row = 0 ∧
      Coding.initial.current.length = 0 ∧ [3#8, 4].getLast? = some 4 ∧ [5#8, 6, 7][2]? = some 7 ∧
      [5#8, 6, 7][2 - 1]? = some 6 ∧ 7 ≤ 7 ∧ 8 ≤ 31 ∧ 32 ≤ 510 := by decide
theorem witness_CodeWordsReadBack :
    1 ≤ Context.initial.cnt ∧ Context.initial.cnt ≤ 31 ∧ (Context.mk 40 31).cnt = 31 ∧ 510 < 2 ^ 9 ∧
      16384 < 2 ^ 15 := by decide
theorem witness_CodingStopsPastRawSize :
    7 ≤ 7 ∧ 1 ≤ 1 ∧ 1 ≤ 16384 ∧ ∀ row ∈ [[200#8], [201]], row.length = 1 := by decide
theorem witness_DecodeRebuildsWithinTolerance :
    [[200#8, 200, 200, 203], [201, 199, 200, 204]] ≠ [] ∧
      (∀ row ∈ [[200#8, 200, 200, 203], [201, 199, 200, 204]], row.length = 4) ∧
      (encodeRows 0 8 [[200, 200, 200, 203], [201, 199, 200, 204]]).1.stopped = false ∧
      [[0x1F#8, 0xFF, 0xE9, 0x08, 0x0C], [0x02, 0x69, 0x00]].flatten =
        codedBytes (encodeRows 0 8 [[200, 200, 200, 203], [201, 199, 200, 204]]).2 ∧
      [[0x1F#8, 0xFF, 0xE9, 0x08, 0x0C], [0x02, 0x69, 0x00]].length = (251 + 8 - 1) / 256 - 251 / 256 + 1 ∧
      [[200#8, 200, 200, 203, 201], [199, 200, 204]].flatten =
        [[200, 200, 200, 203], [201, 199, 200, 204]].flatten := by
  decide +kernel
theorem witness_ChecksTellBurstsApart :
    [1#8, 2].length = [1#8, 3].length ∧ [1#8, 2] ≠ [1, 3] ∧
      ([1#8, 2].flatMap byteBits).take 0 = ([1#8, 3].flatMap byteBits).take 0 ∧
      ([1#8, 2].flatMap byteBits).drop (0 + 16) = ([1#8, 3].flatMap byteBits).drop (0 + 16) := by decide
theorem witness_ChecksTellTwoBitsApart :
    [1#8, 2].length ≤ 262144 ∧ 0 < [1#8, 2].length ∧ 1 < [1#8, 2].length ∧
      ((0, 7) : Nat × Fin 8) ≠ (1, 7) := by decide
theorem witness_MasterFramesAreReceived :
    (Instr.stop .press).wellFormed = true ∧ (Instr.stop .press).sentTo = some .press ∧
      (Decode.masterFrame (.stop .press)).isSome ∧ (up.port .press).state ≠ .down ∧
      (up.port .press).receiver = [] := by decide
theorem witness_FramesJudged :
    let f : List Byte := [0xC3, 0x2A, 7, 9, 9, 9, 9, 9, 9, 9, 9, 9, 0x35, 0x3C]
    f.length = 14 ∧ f.head? = some 0xC3 ∧ f.getD 12 0 = crc8 ((f.drop 1).take 11) ∧
      (Instr.lift .proof 7).commandFrame = some (.proof, .lift) ∧
      (∃ bytes, Decode.masterFrame (.lift .proof 7) = some bytes ∧ ∀ j < 10,
        f.getD (2 + j) 0 &&& (Instr.lift .proof 7).readBits.getD j 0 =
          bytes.getD (2 + j) 0 &&& (Instr.lift .proof 7).readBits.getD j 0) ∧
      (∀ c : Cmd, c.code ≠ 0x7F) :=
  ⟨rfl, rfl, by decide +kernel, rfl, ⟨_, rfl, by decide +kernel⟩, fun c => by cases c <;> decide⟩
theorem witness_StepKeepsRangesAndForms :
    step up = .next up ∧ up.DebtInRange ∧ up.QueueBounded ∧ up.ReadingInRange ∧
      up.LateExcludesOutstanding ∧ up.StoreWf ∧ up.FreeSetWf ∧ up.DownPortsQuiet ∧ up.OneReplyEach := by
  refine ⟨rfl, by unfold State.DebtInRange; decide, by unfold State.QueueBounded; decide,
    fun r h => (by cases h), ⟨fun h => (by cases h), fun h => (by cases h)⟩,
    by unfold State.StoreWf; decide, by unfold State.FreeSetWf; decide,
    fun p h => (by cases p <;> cases h), ⟨fun p => ?_, fun w d h => (by cases h)⟩⟩
  unfold PortRec.OneReply
  cases p <;> decide
theorem witness_StepKeepsBlocksAgree : up.BlocksAgree := by
  unfold State.BlocksAgree State.RolesKept State.ComposeAgrees State.PressAgrees State.ProofAgrees
    State.RestAgrees
  refine ⟨by decide, by decide, by decide, by decide, fun h => absurd rfl h, by decide⟩
theorem up_page (h : Handle) : up.page h = PageRecord.free := by simp [up, State.page, State.reset]
theorem witness_StepKeepsDirectory : up.BlocksAgree ∧ up.DirectoryKept ∧ up.FreeSetWf ∧ up.ExtentsPlaced := by
  refine ⟨witness_StepKeepsBlocksAgree, ⟨fun h => ?_, fun h => ?_, ?_, fun h => ?_, ?_, ?_, ?_, ?_, ?_, ?_⟩,
    by unfold State.FreeSetWf; decide, fun e => ?_, ?_⟩
  · simp [up_page, PageRecord.StateKept, PageRecord.FillingBare, PageRecord.MarksKept,
      PageRecord.CommittedKept, PageRecord.free]
  · rw [up_page]
    exact ⟨fun h => (by cases h), fun ⟨w, h, _⟩ => (by cases h)⟩
  · simp [up, State.reset]
  · rw [up_page]
    rfl
  · simp [up, State.reset]
  · simp [up, State.reset]
  · simp [up, State.reset]
  · simp [up, State.reset]
  · simp [up, State.reset]
  · show 256 = (Vector.replicate 256 PageRecord.free).toList.countP _
    rw [Vector.toList_replicate, List.countP_replicate]
    rfl
  · have pages : (up.pages.toList.map fun r => r.extents.count e).sum = 0 := by
      show ((Vector.replicate 256 PageRecord.free).toList.map _).sum = 0
      rw [Vector.toList_replicate, List.map_replicate, List.sum_replicate]
      rfl
    have free : isFree up.freeSet e = (decide (384 ≤ e) && decide (e ≤ 32767)) := by
      simp [up, State.reset, isFree]
    rw [State.placesOf, pages, free]
    simp
  · simp [up, State.reset]
theorem witness_StepKeepsUnits :
    step up = .next up ∧ (up.BlocksAgree ∧ up.DirectoryKept ∧ up.FreeSetWf ∧ up.ExtentsPlaced) ∧
      up.ShapesInRange ∧ up.EncoderKept ∧ up.UnitsKept := by
  refine ⟨rfl, witness_StepKeepsDirectory, fun h free => absurd (by rw [up_page]; rfl) free, fun w h => (by cases h), fun h => ?_,
    fun h n e => ?_, ⟨fun c h => (by cases h), fun c v h => (by cases h)⟩, fun q h => (by cases h),
    fun q h => (by cases h), fun q h => (by cases h), fun g h => (by cases h)⟩
  · have none : up.inFlight h = (0, []) := rfl
    simp [State.ExtentsCover, up_page, none, PageRecord.free]
  · rw [up_page] at e
    cases e
theorem witness_WholeMachineRules :
    (one.page 5).state ≠ .free ∧
      exec (.strayByte .press 0) { one with thermal := .hot } =
        .next { one with thermal := .hot, press := { portIn .idle with stray := true } } := ⟨by decide, rfl⟩

end Sys2Proof.Tests
end

/-! # Proofs about the page directory: commands judged and answered -/

namespace Sys2Proof.Machine

/-! ## The free set after a return (R41) -/

@[simp] theorem isFree_nil (e : Nat) : isFree [] e = false := rfl

theorem isFree_cons (s : Span) (f : List Span) (e : Nat) :
    isFree (s :: f) e = true ↔ (s.first ≤ e ∧ e ≤ s.last) ∨ isFree f e = true := by
  simp [isFree]

/-- A return adds the extent and no other. -/
theorem isFree_freeExtent {f : List Span} (wf : spansWf f) (e x : Nat) :
    isFree (freeExtent e f) x = true ↔ isFree f x = true ∨ x = e := by
  induction f with
  | nil => simp [freeExtent, isFree_cons]; omega
  | cons s t ih =>
    obtain ⟨hs, hgap, ht⟩ := spansWf_cons.mp wf
    unfold freeExtent
    split
    · simp only [isFree_cons]; grind
    split
    · simp only [isFree_cons]; grind
    split
    · simp only [isFree_cons]; grind
    split
    · cases t with
      | nil => simp only [isFree_cons, isFree_nil]; grind
      | cons u t' =>
        have := hgap u (by simp)
        have := (spansWf_cons.mp ht).1
        dsimp only
        split <;> simp only [isFree_cons] <;> grind
    · simp only [isFree_cons, ih ht]; grind

/-- A return of a list of extents adds those extents and no other. -/
theorem isFree_returnExtents {f : List Span} (wf : spansWf f) (es : List Nat) (x : Nat) :
    isFree (returnExtents es f) x = true ↔ isFree f x = true ∨ x ∈ es := by
  induction es generalizing f with
  | nil => simp [returnExtents]
  | cons e es ih =>
    show isFree (returnExtents es (freeExtent e f)) x = true ↔ _
    rw [ih (spansWf_freeExtent wf e), isFree_freeExtent wf, List.mem_cons, or_assoc]

/-! ## Ports and records do not meddle -/

@[simp] theorem State.page_setPort (s : State) (p : Port) (r : PortRec) (h : Handle) :
    (s.setPort p r).page h = s.page h := State.page_congr (by simp) h

@[simp] theorem State.port_setPage (s : State) (p : Port) (h : Handle) (x : PageRecord) :
    (s.setPage h x).port p = s.port p := by cases p <;> rfl

@[simp] theorem State.setPage_page (s : State) (h : Handle) : s.setPage h (s.page h) = s := by
  simp [State.setPage, State.page]

/-! ## A taken command -/

/-- The state in which a taken command's rule begins: its code is outstanding at the port. -/
def State.taken (s : State) (p : Port) (c : Cmd) : State :=
  s.setPort p { s.port p with outstanding := some c.code }

theorem State.judge_takes {s : State} {p : Port} {c : Cmd} (h : s.takes p c) (body : State → State) :
    s.judge p c body = body (s.taken p c) := State.judge_taken h body

@[simp] theorem State.page_taken (s : State) (p : Port) (c : Cmd) (h : Handle) :
    (s.taken p c).page h = s.page h := State.page_setPort ..

@[simp] theorem State.encoder_taken (s : State) (p : Port) (c : Cmd) :
    (s.taken p c).encoder = s.encoder := State.setPort_encoder ..

@[simp] theorem State.setPage_taken (s : State) (p : Port) (c : Cmd) (h : Handle) (x : PageRecord) :
    (s.taken p c).setPage h x = (s.setPage h x).taken p c := by cases p <;> rfl

/-- A taken command answered with its port's state as it was. -/
theorem State.taken_reply {s : State} {p : Port} (h : (s.port p).state ≠ .down) (c : Cmd) (x : Result)
    (l : List Byte) : (s.taken p c).reply p c.code x l = s.answer p c x l := State.reply_taken h c x l

theorem State.takes.up {s : State} {p : Port} {c : Cmd} (h : s.takes p c) : (s.port p).state ≠ .down :=
  h.1

/-- The commands Table 9-12 allows on every port in every state but DOWN. -/
theorem State.takes_everywhere {s : State} {p : Port} {c : Cmd}
    (hc : c = .status ∨ c = .queryPage ∨ c = .listPages) (up : (s.port p).state ≠ .down)
    (idle : (s.port p).outstanding = none) : s.takes p c := by
  refine ⟨up, idle, ?_⟩
  have ports : c.ports.contains p = true := by rcases hc with rfl | rfl | rfl <;> cases p <;> rfl
  have states : c.states.contains (s.port p).state = true := by
    generalize (s.port p).state = st at up
    rcases hc with rfl | rfl | rfl <;> cases st <;> first | rfl | exact absurd rfl up
  rw [Cmd.allowed, ports, states]
  rfl

/-! ## SEAL_PAGE and ABANDON_PAGE by encoder state (Tables 4-5 and 4-6) -/

theorem State.sealPage_committing {s : State} {w : EncoderWork} {c : Commit} (hw : s.encoder = some w)
    (hp : w.phase = .committing c) (p : Port) : s.sealPage p = s.defer w .sealPage := by
  simp [State.sealPage, hw, hp]

theorem State.sealPage_now {s : State} {w : EncoderWork} (hw : s.encoder = some w)
    (hp : w.phase.isCommitting = false) (p : Port) : s.sealPage p = s.sealNow w := by
  rw [State.sealPage, hw]
  dsimp only
  split
  · next c hc => simp [hc, EncoderPhase.isCommitting] at hp
  · rfl

theorem State.abandonPage_now {s : State} {w : EncoderWork} (hw : s.encoder = some w)
    (hp : w.phase = .ready ∨ w.phase = .complete) (p : Port) : s.abandonPage p = s.abandonNow w := by
  rcases hp with hp | hp <;> simp [State.abandonPage, hw, hp]

theorem State.abandonPage_deferred {s : State} {w : EncoderWork} (hw : s.encoder = some w)
    (hp : ¬(w.phase = .ready ∨ w.phase = .complete)) (p : Port) :
    s.abandonPage p = s.defer w .abandonPage := by
  rw [State.abandonPage, hw]
  cases h : w.phase <;> simp_all

theorem PageRecord.allCommitted_iff (r : PageRecord) :
    r.allCommitted = true ↔ r.committed = r.shape.positions := by simp [PageRecord.allCommitted]

/-! ## Fields of two and four bytes (R182) -/

theorem field16_eq (n : Nat) : field16 n = [BitVec.ofNat 8 (n / 256), BitVec.ofNat 8 (n % 256)] := by
  have : BitVec.ofNat 8 n = BitVec.ofNat 8 (n % 256) := by
    apply BitVec.eq_of_toNat_eq; simp
  simp [field16, this]

theorem field32_eq (n : Nat) : field32 n = [BitVec.ofNat 8 (n / 16777216), BitVec.ofNat 8 (n / 65536 % 256),
    BitVec.ofNat 8 (n / 256 % 256), BitVec.ofNat 8 (n % 256)] := by
  have high : n / 65536 / 256 = n / 16777216 := by omega
  have low : BitVec.ofNat 8 (n / 256) = BitVec.ofNat 8 (n / 256 % 256) := by
    apply BitVec.eq_of_toNat_eq; simp
  rw [field32, field16_eq, field16_eq, high, low]
  rfl

theorem PageRecord.flags_eq (r : PageRecord) : r.flags = r.flagBits := by
  unfold PageRecord.flags PageRecord.flagBits flagByte
  congr 1
  simp only [List.foldr_cons, List.foldr_nil]
  omega

theorem packTolerances_eq (v : Vector Nat 6) :
    packTolerances v = [BitVec.ofNat 8 (16 * v[0] + v[1]), BitVec.ofNat 8 (16 * v[2] + v[3]),
      BitVec.ofNat 8 (16 * v[4] + v[5])] := by
  have : v.toList = [v[0], v[1], v[2], v[3], v[4], v[5]] := by
    apply List.ext_getElem (by simp)
    intro i h _
    have : i < 6 := by simpa using h
    interval_cases i <;> simp
  simp [packTolerances, this]

theorem retentionCode_eq (x : Retention) : retentionCode x = if x = .keep then 0x00 else 0x01 := by
  cases x <;> rfl

end Sys2Proof.Machine

section

open Sys2Proof Sys2Proof.Machine

/-- Settles O10: the checks of R14 in order, then one record changes. -/
theorem holdSetsReason : Obligations.HoldSetsReason := by
  intro h reason s ht
  show Host.Outcome.next (s.judge .proof .hold (·.holdPage .proof h reason)) = _
  rw [State.judge_takes ht, State.holdPage, State.page_taken, holdRefusal]
  by_cases h0 : reason = 0
  · simp only [if_pos h0, State.taken_reply ht.up]
  by_cases h1 : (s.page h).state = .free ∨ (s.page h).state = .filling ∨ (s.page h).releasePending = true
  · simp only [if_neg h0, if_pos h1, State.taken_reply ht.up]
  · simp only [if_neg h0, if_neg h1, State.updatePage, State.page_taken, State.setPage_taken]
    rw [State.taken_reply (s := s.setPage h _) (by simpa using ht.up)]

/-- Settles O11: a lift writes an absent reason, which is no change where there is none. -/
theorem liftClearsReason : Obligations.LiftClearsReason := by
  refine fun h s => ⟨fun ht => ?_, fun absent => ?_, fun p hp ht => ?_⟩
  · show Host.Outcome.next (s.judge .proof .lift (·.liftPage .proof h)) = _
    rw [State.judge_takes ht, State.liftPage, State.updatePage, State.page_taken, State.setPage_taken,
      State.taken_reply (s := s.setPage h _) (by simpa using ht.up)]
  · have : { s.page h with holdReason := none } = s.page h := by rw [← absent]
    rw [this, State.setPage_page]
  · have := ht.2.2
    cases p <;> simp [Cmd.allowed, Cmd.ports] at this hp

/-- Settles O8: the payload is the model's own, field by field. -/
theorem queryPageReportsRecord : Obligations.QueryPageReportsRecord := by
  refine ⟨fun x => by cases x <;> rfl, fun n => ⟨field16_eq n, field32_eq n⟩, fun p h e s up idle => ?_⟩
  have ht := State.takes_everywhere (c := .queryPage) (by simp) up idle
  show Host.Outcome.next (s.judge p .queryPage (·.queryPage p h e.toNat)) = _
  rw [State.judge_takes ht, State.queryPage, State.page_taken]
  simp only [State.taken_reply up, queryPayload, PageRecord.flags_eq, packTolerances_eq, retentionCode_eq]
  congr 4


/-- Settles O17: freeing a page is the return of its extents; the command frees it or waits. -/
theorem abandonPageByEncoderState : Obligations.AbandonPageByEncoderState := by
  refine ⟨fun s h wf => ⟨?_, fun g hg => ?_, fun e => isFree_returnExtents wf _ e, rfl, rfl⟩,
    fun w s ht hw => ?_⟩
  · rw [State.page_freePage, if_pos rfl]
    rfl
  · rw [State.page_freePage, if_neg hg]
  · show Host.Outcome.next (s.judge .compose .abandonPage (·.abandonPage .compose)) = _
    have hw' : (s.taken .compose .abandonPage).encoder = some w := hw
    rw [State.judge_takes ht]
    split
    · next hp =>
      rw [State.abandonPage_now hw' hp]
      rfl
    · next hp =>
      rw [State.abandonPage_deferred hw' hp]
      rfl

/-- Settles O16: a commit in flight defers the answer; else the committed count decides it. -/
theorem sealPageByEncoderState : Obligations.SealPageByEncoderState := by
  intro w s ht hw
  show Host.Outcome.next (s.judge .compose .sealPage (·.sealPage .compose)) = _
  have hw' : (s.taken .compose .sealPage).encoder = some w := hw
  rw [State.judge_takes ht]
  cases hp : w.phase.isCommitting with
  | true =>
    obtain ⟨c, hc⟩ : ∃ c, w.phase = .committing c := by
      cases h : w.phase <;> simp_all [EncoderPhase.isCommitting]
    rw [State.sealPage_committing hw' hc]
    rfl
  | false =>
    rw [State.sealPage_now hw' hp, State.sealNow, State.page_taken]
    simp only [PageRecord.allCommitted_iff, State.taken_reply ht.up]
    rfl

end

namespace Sys2Proof.Machine

/-! ## Ranges of handles (R18, R23) -/

/-- The numbers of a range that lie between two bounds, ascending. -/
theorem map_range_add_eq_filter {n a b : Nat} (hb : b < n) :
    (List.range (b + 1 - a)).map (a + ·) = (List.range n).filter fun h => decide (a ≤ h ∧ h ≤ b) := by
  refine List.Pairwise.eq_of_mem_iff (r := (· < ·)) ?_ (List.pairwise_lt_range.filter _) fun x => ?_
  · exact List.pairwise_lt_range.map _ fun x y h => by omega
  · simp only [List.mem_map, List.mem_range, List.mem_filter, decide_eq_true_eq]
    exact ⟨by rintro ⟨i, hi, rfl⟩; omega, fun h => ⟨x - a, by omega, by omega⟩⟩

theorem handlesFrom_eq {a b : Nat} (hb : b < 256) :
    handlesFrom a b = ((List.range 256).filter fun h => decide (a ≤ h ∧ h ≤ b)).map (BitVec.ofNat 8) := by
  rw [← map_range_add_eq_filter hb, List.map_map]
  rfl

/-- The handles from one to another are those of the directory that lie between them, in its order. -/
theorem handlesFrom_handles (a b : Handle) : handlesFrom a.toNat b.toNat =
    allHandles.filter fun h => decide (a.toNat ≤ h.toNat ∧ h.toNat ≤ b.toNat) := by
  rw [handlesFrom_eq b.isLt, allHandles, List.filter_map]
  refine congrArg (List.map _) (List.filter_congr fun x hx => ?_)
  have : x < 256 := List.mem_range.mp hx
  simp [Nat.mod_eq_of_lt this]

theorem allHandles_nodup : allHandles.Nodup := by
  refine List.nodup_range.map_on fun x hx y hy e => ?_
  have := congrArg BitVec.toNat e
  simpa [Nat.mod_eq_of_lt (List.mem_range.mp hx), Nat.mod_eq_of_lt (List.mem_range.mp hy)] using this

theorem handlesFrom_nodup (a b : Handle) : (handlesFrom a.toNat b.toNat).Nodup := by
  rw [handlesFrom_handles]
  exact allHandles_nodup.filter _

/-! ## RELEASE of a list of handles (Table 1-7) -/

/-- A record once RELEASE has treated it. -/
def PageRecord.released (r : PageRecord) : PageRecord :=
  match r.releaseClass with
  | .freed => PageRecord.free
  | .pending => { r with releasePending := true }
  | _ => r

/-- The counts of a RELEASE once one more handle of a class has been treated. -/
def ReleaseCounts.add (n : ReleaseCounts) (k : ReleaseClass) : ReleaseCounts where
  freed   := n.freed + if k = .freed then 1 else 0
  pending := n.pending + if k = .pending then 1 else 0
  busy    := n.busy + if k = .busy then 1 else 0
  held    := n.held + if k = .held then 1 else 0

/-- RELEASE's treatment of one handle, by the class of its record. -/
theorem State.releaseOne_eq (s : State) (n : ReleaseCounts) (h : Handle) :
    State.releaseOne (s, n) h = (match (s.page h).releaseClass with
      | .freed => s.freePage h
      | .pending => s.setPage h { s.page h with releasePending := true }
      | _ => s, n.add (s.page h).releaseClass) := by
  unfold State.releaseOne PageRecord.releaseClass
  dsimp only
  by_cases h1 : (s.page h).state = .free
  · simp [h1, ReleaseCounts.add]
  by_cases h2 : (s.page h).state = .filling
  · simp [h2, ReleaseCounts.add]
  by_cases h3 : (s.page h).holdReason.isSome = true
  · simp [h1, h2, h3, ReleaseCounts.add]
  by_cases h4 : (s.page h).references = 0
  · simp [h1, h2, h3, h4, ReleaseCounts.add]
  · simp [h1, h2, h3, h4, Nat.pos_of_ne_zero h4, ReleaseCounts.add]

/-- What RELEASE's treatment of the handles `hs` makes of a state. -/
structure State.ReleasedTo (s : State) (hs : List Handle) (t : State) : Prop where
  pages : ∀ h, t.page h = if h ∈ hs then (s.page h).released else s.page h
  free : ∀ e : Nat, isFree t.freeSet e = true ↔ isFree s.freeSet e = true ∨
    ∃ h ∈ hs, (s.page h).releaseClass = .freed ∧ e ∈ (s.page h).extents
  count : t.freeRecords = s.freeRecords + hs.countP fun h => (s.page h).releaseClass == .freed
  frame : t = { s with pages := t.pages, freeSet := t.freeSet, freeRecords := t.freeRecords }
  wf : t.FreeSetWf

theorem State.releasedTo_one {s : State} (wf : s.FreeSetWf) (n : ReleaseCounts) (h : Handle) :
    s.ReleasedTo [h] (State.releaseOne (s, n) h).1 := by
  rw [State.releaseOne_eq]
  have kept : (s.page h).released = s.page h → ∀ g, s.page g = if g ∈ [h] then (s.page g).released else s.page g := by
    intro e g
    split
    · next hg => rw [List.mem_singleton.mp hg, e]
    · rfl
  cases hk : (s.page h).releaseClass with
  | freed =>
    have hr : (s.page h).released = PageRecord.free := by simp [PageRecord.released, hk]
    refine ⟨fun g => ?_, fun e => ?_, by simp [hk]; rfl, rfl, spansWf_returnExtents wf _⟩
    · rw [State.page_freePage]
      by_cases hg : g = h <;> simp [hg, hr]
    · refine (isFree_returnExtents wf _ e).trans ?_
      simp [hk]
  | pending =>
    have hr : (s.page h).released = { s.page h with releasePending := true } := by simp [PageRecord.released, hk]
    refine ⟨fun g => ?_, by simp [hk], by simp [hk], rfl, wf⟩
    rw [State.page_setPage_if]
    by_cases hg : g = h <;> simp [hg, hr]
  | _ => exact ⟨kept (by simp [PageRecord.released, hk]), by simp [hk], by simp [hk], rfl, wf⟩

/-- The release of one handle leaves the others as they were found. -/
theorem State.ReleasedTo.page_of_mem {s u : State} {g h : Handle} {hs : List Handle} (first : s.ReleasedTo [h] u)
    (fresh : h ∉ hs) (hg : g ∈ hs) : u.page g = s.page g := by
  have : g ≠ h := fun e => fresh (e ▸ hg)
  simp [first.pages, this]

theorem State.ReleasedTo.cons {s u t : State} {h : Handle} {hs : List Handle} (first : s.ReleasedTo [h] u)
    (rest : u.ReleasedTo hs t) (fresh : h ∉ hs) : s.ReleasedTo (h :: hs) t := by
  have same := fun g => first.page_of_mem fresh (g := g)
  refine ⟨fun g => ?_, fun e => ?_, ?_, ?_, rest.wf⟩
  · rw [rest.pages, first.pages]
    by_cases hg : g ∈ hs
    · simp [hg, show g ≠ h from fun e => fresh (e ▸ hg)]
    · simp [hg]
  · rw [rest.free, first.free]
    have rest' : (∃ g ∈ hs, (u.page g).releaseClass = .freed ∧ e ∈ (u.page g).extents) ↔
        ∃ g ∈ hs, (s.page g).releaseClass = .freed ∧ e ∈ (s.page g).extents :=
      exists_congr fun g => and_congr_right fun hg => by rw [same g hg]
    rw [rest', or_assoc]
    simp
  · have rest' : hs.countP (fun g => (u.page g).releaseClass == .freed) =
        hs.countP fun g => (s.page g).releaseClass == .freed :=
      List.countP_congr fun g hg => by rw [same g hg]
    rw [rest.count, first.count, rest', List.countP_cons, List.countP_cons, List.countP_nil]
    omega
  · rw [rest.frame, first.frame]

/-- RELEASE of distinct handles: each by its class as found before, and the classes counted. -/
theorem State.foldl_releaseOne {s : State} (wf : s.FreeSetWf) (n : ReleaseCounts) {hs : List Handle}
    (distinct : hs.Nodup) :
    let count := fun k => hs.countP fun h => (s.page h).releaseClass == k
    s.ReleasedTo hs (hs.foldl State.releaseOne (s, n)).1 ∧
      (hs.foldl State.releaseOne (s, n)).2 =
        ⟨n.freed + count .freed, n.pending + count .pending, n.busy + count .busy, n.held + count .held⟩ := by
  induction hs generalizing s n with
  | nil => exact ⟨⟨by simp, by simp, rfl, rfl, wf⟩, rfl⟩
  | cons h hs ih =>
    obtain ⟨fresh, distinct⟩ := List.nodup_cons.mp distinct
    have first := State.releasedTo_one wf n h
    obtain ⟨rest, counts⟩ := ih first.wf (State.releaseOne (s, n) h).2 distinct
    have same := fun g => first.page_of_mem fresh (g := g)
    refine ⟨first.cons rest fresh, counts.trans ?_⟩
    have cong : ∀ k, hs.countP (fun g => ((State.releaseOne (s, n) h).1.page g).releaseClass == k) =
        hs.countP fun g => (s.page g).releaseClass == k :=
      fun k => List.countP_congr fun g hg => by rw [same g hg]
    simp only [cong]
    simp only [State.releaseOne_eq, ReleaseCounts.add, List.countP_cons, beq_iff_eq]
    congr 1 <;> omega

theorem State.releasePages_eq (s : State) (p : Port) {first last : Nat} (h : first ≤ last) :
    let x := (handlesFrom first last).foldl State.releaseOne (s, ⟨0, 0, 0, 0⟩)
    s.releasePages p first last =
      x.1.reply p Cmd.release.code (if x.2.busy = 0 ∧ x.2.held = 0 then .ok else .partialRelease)
        (field16 x.2.freed ++ field16 x.2.pending ++ field16 x.2.busy ++ field16 x.2.held) := by
  rw [State.releasePages, if_neg (by omega)]

end Sys2Proof.Machine

section

open Sys2Proof Sys2Proof.Machine

/-- Settles O9: the model's range of handles is the directory's part between the bounds. -/
theorem listPagesReportsRecords : Obligations.ListPagesReportsRecords := by
  intro p first count s up idle
  dsimp only
  have ht := State.takes_everywhere (c := .listPages) (by simp) up idle
  show Host.Outcome.next (s.judge p .listPages (·.listPages p first.toNat count.toNat)) = _
  rw [State.judge_takes ht, State.listPages]
  simp only [State.page_taken, State.taken_reply up, listEntry, PageRecord.flags_eq]
  rw [handlesFrom_eq (by omega)]
  simp only [List.length_map, List.flatMap_map]

/-- Settles O12: RELEASE walks distinct handles, so each is found as it was before the command. -/
theorem releaseTreatsTheRange : Obligations.ReleaseTreatsTheRange := by
  intro a b s ht wf
  dsimp only
  have hexec : exec (.release .compose a b) s =
      .next ((s.taken .compose .release).releasePages .compose a.toNat b.toNat) := by
    show Host.Outcome.next (s.judge .compose .release (·.releasePages .compose a.toNat b.toNat)) = _
    rw [State.judge_takes ht]
  rw [hexec]
  refine ⟨fun hab => ?_, fun hab => ?_⟩
  · rw [State.releasePages, if_pos hab, State.taken_reply ht.up]
  · obtain ⟨done, counts⟩ := State.foldl_releaseOne (s := s.taken .compose .release) wf ⟨0, 0, 0, 0⟩
      (handlesFrom_nodup a b)
    refine ⟨_, rfl, ?_⟩
    rw [State.releasePages_eq _ _ hab, counts]
    simp only [handlesFrom_handles, State.page_taken, Nat.zero_add] at done ⊢
    generalize (allHandles.filter _).foldl State.releaseOne _ = x at done ⊢
    refine ⟨fun h => ?_, fun e => ?_, done.count, ?_⟩
    · rw [State.reply_eq, State.page_setPort]
      exact done.pages h
    · rw [State.reply_freeSet]
      exact done.free e
    · exact (congrArg (State.reply · _ _ _ _) done.frame).trans
        (State.taken_reply (p := .compose) (s :=
          { s with pages := x.1.pages, freeSet := x.1.freeSet, freeRecords := x.1.freeRecords })
          ht.up .release _ _)

end

namespace Sys2Proof.Machine

/-! ## OPEN_PAGE's parameters (R1, R181) -/

theorem toleranceNibbles (a b c : Byte) :
    (List.range 6).map (toleranceNibble (a ++ b ++ c)) =
      [a.toNat / 16, a.toNat % 16, b.toNat / 16, b.toNat % 16, c.toNat / 16, c.toNat % 16] := by
  have value : (a ++ b ++ c).toNat = (a.toNat * 256 + b.toNat) * 256 + c.toNat := by
    rw [BitVec.toNat_append, BitVec.toNat_append, ← Nat.shiftLeft_add_eq_or_of_lt c.isLt,
      ← Nat.shiftLeft_add_eq_or_of_lt b.isLt, Nat.shiftLeft_eq, Nat.shiftLeft_eq]
  have := a.isLt
  have := b.isLt
  have := c.isLt
  simp only [List.range_succ, List.range_zero, List.nil_append, List.map_cons, List.map_nil,
    toleranceNibble, value, List.cons_append]
  norm_num
  omega

theorem openParamsGood_iff (q : OpenParams) : openParamsGood q = true ↔ q.InRange := by
  simp only [openParamsGood, OpenParams.InRange, Bool.and_eq_true, Bool.or_eq_true, decide_eq_true_eq, beq_iff_eq,
    List.all_eq_true, List.mem_range]
  tauto

theorem ceilDiv_pos {n d : Nat} (hn : 0 < n) (hd : 0 < d) : 0 < ceilDiv n d :=
  Nat.div_pos (by omega) hd

theorem openedRecord_positions_pos {q : OpenParams} (h : q.InRange) : 0 < (openedRecord q).shape.positions := by
  obtain ⟨planes, -, height, band, -, -⟩ := h
  have : 0 < q.bandHeight.toNat := by rcases band with e | e <;> simp [e]
  exact Nat.mul_pos (ceilDiv_pos (show 0 < q.height.toNat by omega) this) (show 0 < q.planes.toNat by omega)

/-- The directory's handles lie in it by their number. -/
theorem allHandles_getElem (i : Nat) (hi : i < allHandles.length) : (allHandles[i]).toNat = i := by
  have : i < 256 := by simpa [allHandles] using hi
  simp [allHandles, Nat.mod_eq_of_lt this]

/-- The search for a record finds the lowest. -/
theorem find?_allHandles {p : Handle → Bool} {h : Handle} (hp : p h = true)
    (lowest : ∀ g : Handle, g.toNat < h.toNat → p g = false) : allHandles.find? p = some h := by
  rw [List.find?_eq_some_iff_getElem]
  refine ⟨hp, h.toNat, by simpa [allHandles] using h.isLt, ?_, fun j hj => ?_⟩
  · exact BitVec.eq_of_toNat_eq (allHandles_getElem ..)
  · simpa using lowest _ (by rwa [allHandles_getElem])

theorem State.chooseRecord_named {s : State} {h : Handle} (named : h ≠ 0xFF) (free : (s.page h).state = .free) :
    s.chooseRecord h = .ok h := by rw [State.chooseRecord, if_neg named, if_pos free]

theorem State.chooseRecord_busy {s : State} {h : Handle} (named : h ≠ 0xFF) (busy : (s.page h).state ≠ .free) :
    s.chooseRecord h = .error .state := by rw [State.chooseRecord, if_neg named, if_neg busy]

theorem State.chooseRecord_full {s : State} (full : ∀ h, (s.page h).state ≠ .free) :
    s.chooseRecord 0xFF = .error .directoryFull := by
  have : allHandles.find? (fun k => decide ((s.page k).state = .free)) = none := by
    simp [full]
  rw [State.chooseRecord, if_pos rfl, this]

theorem State.chooseRecord_lowest {s : State} {h : Handle} (free : (s.page h).state = .free)
    (lowest : ∀ g : Handle, g.toNat < h.toNat → (s.page g).state ≠ .free) : s.chooseRecord 0xFF = .ok h := by
  have : allHandles.find? (fun k => decide ((s.page k).state = .free)) = some h :=
    find?_allHandles (by simpa using free) fun g hg => by simpa using lowest g hg
  rw [State.chooseRecord, if_pos rfl, this]

/-- The command's record does not depend on the ports. -/
@[simp] theorem State.chooseRecord_taken (s : State) (p : Port) (c : Cmd) (h : Handle) :
    (s.taken p c).chooseRecord h = s.chooseRecord h := by
  simp only [State.chooseRecord, State.page_taken]

theorem State.openPage_refused {s : State} {q : OpenParams} (bad : ¬q.InRange) (p : Port) :
    s.openPage p q = s.reply p Cmd.openPage.code .param [] := by
  rw [State.openPage, if_pos (by simpa using mt (openParamsGood_iff q).mp bad)]

theorem State.openPage_error {s : State} {q : OpenParams} {r : Result} (good : q.InRange)
    (h : s.chooseRecord q.handle = .error r) (p : Port) : s.openPage p q = s.reply p Cmd.openPage.code r [] := by
  rw [State.openPage, if_neg (by simpa using (openParamsGood_iff q).mpr good), h]

theorem State.openPage_ok {s : State} {q : OpenParams} {h : Handle} (good : q.InRange)
    (hh : s.chooseRecord q.handle = .ok h) (p : Port) :
    s.openPage p q = (s.openAt h q).reply p Cmd.openPage.code .ok [h] := by
  rw [State.openPage, if_neg (by simpa using (openParamsGood_iff q).mpr good), hh]

/-- The checks of Table 1-6 in order, and the page made FILLING again. -/
theorem State.continuePage_eq (s : State) (p : Port) (h : Handle) :
    s.continuePage p h =
      if h = 0xFF then s.reply p Cmd.openPage.code .param []
      else if (s.page h).state = .free then s.reply p Cmd.openPage.code .noPage []
      else if (s.page h).state ≠ .torn then s.reply p Cmd.openPage.code .state []
      else if (s.page h).holdReason ≠ none then s.reply p Cmd.openPage.code .held []
      else if (s.page h).releasePending = true then s.reply p Cmd.openPage.code .state []
      else if (s.page h).references ≠ 0 then s.reply p Cmd.openPage.code .state []
      else if (s.page h).firstDamaged ≠ none then s.reply p Cmd.openPage.code .state []
      else (s.continueAt h).reply p Cmd.openPage.code .ok [h] := by
  simp only [State.continuePage, continueRefusal, Option.isSome_iff_ne_none]
  split_ifs <;> rfl

end Sys2Proof.Machine

section

open Sys2Proof Sys2Proof.Machine

/-- Settles O13: by what ended references can do, the page's count falls or the page is freed. -/
theorem lastReferenceFreesPendingPage : Obligations.LastReferenceFreesPendingPage := by
  intro s h n wf pos le
  dsimp only
  rcases s.dropRefs_cases h n with ⟨e, -⟩ | ⟨-, pending, gone, e⟩ | ⟨-, stays, e⟩
  · omega
  · refine ⟨fun kept => absurd ⟨pending, by omega⟩ kept, fun _ => ?_⟩
    rw [e]
    exact ⟨by simp [State.page_freePage], fun g hg => by simp [State.page_freePage, hg],
      isFree_returnExtents wf _, rfl, rfl⟩
  · exact ⟨fun _ => e, fun freed => absurd ⟨freed.1, by omega⟩ stays⟩

/-- Settles O14: the record is chosen as R7 says, and the opening writes it whole. -/
theorem openPageOpensOrRefuses : Obligations.OpenPageOpensOrRefuses := by
  refine ⟨toleranceNibbles, fun q s ht => ?_⟩
  have hexec : exec (.openPage .compose q) s = .next ((s.taken .compose .openPage).openPage .compose q) := by
    show Host.Outcome.next (s.judge .compose .openPage (·.openPage .compose q)) = _
    rw [State.judge_takes ht]
  rw [hexec]
  refine ⟨fun bad => ?_, fun good named busy => ?_, fun good any full => ?_, fun h good free which => ?_⟩
  · rw [State.openPage_refused bad, State.taken_reply ht.up]
  · rw [State.openPage_error good (by simpa using State.chooseRecord_busy named busy), State.taken_reply ht.up]
  · rw [State.openPage_error good (by simpa [any] using State.chooseRecord_full full), State.taken_reply ht.up]
  · have chosen : s.chooseRecord q.handle = .ok h := by
      rcases which with ⟨rfl, named⟩ | ⟨any, lowest⟩
      · exact State.chooseRecord_named named free
      · rw [any]
        exact State.chooseRecord_lowest free lowest
    have begun : EncoderWork.begin h 0 (openedRecord q).shape.positions =
        { phase := .ready, handle := h, expected := some 0, stagedLines := 0, staging := [], output := []
          coding := none, deferred := none } := by
      have := openedRecord_positions_pos good
      simp [EncoderWork.begin, show 0 ≠ (openedRecord q).shape.positions by omega]
    rw [State.openPage_ok good (by simpa using chosen), State.openAt, begun]
    rfl

/-- Settles O15: the checks of Table 1-6 in order, then the page is FILLING at its committed count. -/
theorem continuePageResumes : Obligations.ContinuePageResumes := by
  intro h s ht
  dsimp only
  show Host.Outcome.next (s.judge .compose .openPage (·.continuePage .compose h)) = _
  rw [State.judge_takes ht, State.continuePage_eq]
  simp only [State.page_taken, State.taken_reply ht.up, State.continueAt, EncoderWork.begin]
  rfl

end

namespace Sys2Proof.Machine

/-! ## The geometry of a page (R2) -/

theorem Shape.bandLines_inner {p : Shape} {band : Nat} (h : band + 1 < p.bands) : p.bandLines band = p.bandHeight :=
  if_pos h

theorem Shape.bandLines_last {p : Shape} {band : Nat} (h : band + 1 = p.bands) :
    p.bandLines band = p.height - (p.bands - 1) * p.bandHeight := if_neg (by omega)

/-- All bands but the last are full, and the last holds a line at least. -/
theorem Shape.bands_bounds {p : Shape} (hb : 0 < p.bandHeight) (hh : 0 < p.height) :
    (p.bands - 1) * p.bandHeight < p.height ∧ p.height ≤ p.bands * p.bandHeight := by
  have le := Nat.div_mul_le_self (p.height + p.bandHeight - 1) p.bandHeight
  have lt := Nat.lt_div_mul_add (a := p.height + p.bandHeight - 1) hb
  have pos : 0 < p.bands := ceilDiv_pos hh hb
  have : p.bands * p.bandHeight = (p.bands - 1) * p.bandHeight + p.bandHeight := by
    rw [← Nat.succ_mul]; congr 1; omega
  change p.bands * p.bandHeight ≤ _ at le
  change _ < p.bands * p.bandHeight + _ at lt
  omega

theorem Shape.bandLines_bounds {p : Shape} (hb : 0 < p.bandHeight) (hh : 0 < p.height) {band : Nat}
    (h : band < p.bands) : 1 ≤ p.bandLines band ∧ p.bandLines band ≤ p.bandHeight := by
  obtain ⟨lt, le⟩ := Shape.bands_bounds hb hh
  rcases Nat.lt_or_ge (band + 1) p.bands with inner | last
  · rw [Shape.bandLines_inner inner]
    omega
  · have : p.bands * p.bandHeight = (p.bands - 1) * p.bandHeight + p.bandHeight := by
      rw [← Nat.succ_mul]; congr 1; omega
    rw [Shape.bandLines_last (by omega)]
    omega

/-- The bands hold the page's lines, each once. -/
theorem Shape.sum_bandLines {p : Shape} (hb : 0 < p.bandHeight) (hh : 0 < p.height) :
    ((List.range p.bands).map p.bandLines).sum = p.height := by
  obtain ⟨n, hn⟩ : ∃ n, p.bands = n + 1 := ⟨p.bands - 1, by have := ceilDiv_pos hh hb; unfold Shape.bands; omega⟩
  have inner : (List.range n).map p.bandLines = (List.range n).map fun _ => p.bandHeight :=
    List.map_congr_left fun b hb => Shape.bandLines_inner (by have := List.mem_range.mp hb; omega)
  obtain ⟨lt, -⟩ := Shape.bands_bounds hb hh
  rw [hn, List.range_succ, List.map_append, List.sum_append, inner, List.map_const', List.sum_replicate,
    List.length_range, List.map_cons, List.map_nil, List.sum_singleton, Shape.bandLines_last hn.symm, hn]
  rw [hn] at lt
  simp only [Nat.add_sub_cancel, smul_eq_mul] at lt ⊢
  omega

theorem Shape.tol_eq (p : Shape) (j : Fin 6) : p.tol j = p.tolerances[j] := by
  simp [Shape.tol, List.getD_eq_getElem?_getD]

/-! ## A line block at the Compose port (Table 4-3) -/

/-- The block's frame is good (R77, R175). -/
theorem lineBlockGood_iff (b : LineBlock) : lineBlockGood b = true ↔
    b.data.length = (if b.depth = 0x01 then (b.count.toNat + 1) / 2 else b.count.toNat) ∧
      b.crc = crc16 (b.kind :: b.depth :: b.plane :: field16 b.line.toNat ++ field16 b.count.toNat ++ b.data) := by
  simp [lineBlockGood, announcedData, ceilDiv, blockBody]

/-- The block is the line the encoder expects (Table 4-3, the tests after the first). -/
abbrev EncoderWork.Awaits (w : EncoderWork) (p : Shape) (b : LineBlock) : Prop :=
  w.phase = .ready ∧ b.kind = 0x00 ∧ b.depth = 0x00 ∧ b.plane.toNat = w.plane p ∧ b.line.toNat = w.line p ∧
    b.count.toNat = p.width

theorem lineBlockRefusal_check {b : LineBlock} (bad : lineBlockGood b = false) (w : EncoderWork) (p : Shape) :
    lineBlockRefusal w p b = some .rejectCheck := by simp [lineBlockRefusal, bad]

theorem lineBlockRefusal_order {w : EncoderWork} {p : Shape} {b : LineBlock} (good : lineBlockGood b = true)
    (other : ¬w.Awaits p b) : lineBlockRefusal w p b = some .rejectOrder := by
  rw [lineBlockRefusal, good, if_neg (by decide)]
  iterate 6 (split; · rfl)
  rename_i phase kind depth plane line count
  exact absurd ⟨not_not.mp phase, not_not.mp kind, not_not.mp depth, not_not.mp plane, not_not.mp line,
    not_not.mp count⟩ other

theorem lineBlockRefusal_none {w : EncoderWork} {p : Shape} {b : LineBlock} (good : lineBlockGood b = true)
    (awaited : w.Awaits p b) : lineBlockRefusal w p b = none := by
  obtain ⟨ready, kind, depth, plane, line, count⟩ := awaited
  simp [lineBlockRefusal, good, ready, kind, depth, plane, line, count, BlockKind.code, Depth.code]

/-- In READY and COMPLETE a block that fails a test is answered with its token. -/
theorem State.composeBlock_refused {s : State} {w : EncoderWork} {b : LineBlock} {t : Token}
    (hp : w.phase = .ready ∨ w.phase = .complete)
    (h : lineBlockRefusal w (s.page w.handle).shape b = some t) :
    s.composeBlock w b = s.send .compose (.token t) := by
  rcases hp with hp | hp <;> simp only [State.composeBlock, hp, h]

/-- In READY and COMPLETE a good block joins the plane-band. -/
theorem State.composeBlock_taken {s : State} {w : EncoderWork} {b : LineBlock}
    (hp : w.phase = .ready ∨ w.phase = .complete) (h : lineBlockRefusal w (s.page w.handle).shape b = none) :
    s.composeBlock w b = { s with encoder := some (w.takeLine (s.page w.handle).shape b.data) } := by
  rcases hp with hp | hp <;> simp only [State.composeBlock, hp, h]

theorem State.send_eq_sent {s : State} {p : Port} (up : (s.port p).state ≠ .down) (f : Frame) :
    s.send p f = s.sent p f := by
  rw [State.send, State.updatePort, PortRec.send_eq _ _ up]
  rfl

end Sys2Proof.Machine

section

open Sys2Proof Sys2Proof.Machine

/-- Settles O19: the geometry from ceil(H / B), and the tests of Table 4-3 one after another. -/
theorem composeLineBlockJudged : Obligations.ComposeLineBlockJudged := by
  refine ⟨fun p band hb hh => ⟨rfl, rfl, Shape.bandLines_inner, fun last => ⟨Shape.bandLines_last last,
    Shape.bandLines_bounds hb hh (by change _ = p.bands at last; omega)⟩, rfl, Shape.sum_bandLines hb hh,
    p.tol_eq⟩, fun b w s inbound hw hp => ?_⟩
  dsimp only
  have up : (s.port .compose).state ≠ .down := by simp [inbound]
  have hexec : exec (.lineBlock .compose b) s = .next (s.composeBlock w b) := by
    show Host.Outcome.next _ = _
    rw [if_neg up, State.lineBlock, if_pos ⟨rfl, inbound⟩, hw]
  rw [hexec]
  simp only [← lineBlockGood_iff]
  show Host.Outcome.next _ = .next (if ¬_ then _ else if ¬w.Awaits (s.page w.handle).shape b then _ else _)
  by_cases good : lineBlockGood b = true
  · rw [if_neg (not_not.mpr good)]
    by_cases awaited : w.Awaits (s.page w.handle).shape b
    · rw [if_neg (not_not.mpr awaited), State.composeBlock_taken hp (lineBlockRefusal_none good awaited)]
      rfl
    · rw [if_pos awaited, State.composeBlock_refused hp (lineBlockRefusal_order good awaited),
        State.send_eq_sent up]
  · rw [if_pos good, State.composeBlock_refused hp (lineBlockRefusal_check (by simpa using good) _ _),
      State.send_eq_sent up]

/-- Settles O2: the state after power-on reset is the reset state, but for the counts and the queue outside. -/
theorem powerOnResetClearsEverything : Obligations.PowerOnResetClearsEverything := by
  intro s
  refine ⟨_, rfl, fun p => by cases p <;> exact ⟨rfl, rfl, rfl, rfl, rfl, rfl⟩, rfl, rfl, fun h => ?_, rfl, fun e => ?_,
    rfl, rfl, fun g => ?_, rfl, rfl, rfl, rfl, rfl, rfl, rfl, rfl, rfl, rfl, rfl, rfl, rfl⟩
  · simp [State.page, State.reset]
  · simp [State.reset, isFree]
  · simp

end

namespace Sys2Proof.Machine

/-! ## The records of a directory -/

/-- Something holds of a record of the directory's list when it holds of a handle's. -/
theorem State.exists_mem_pages (s : State) (P : PageRecord → Prop) :
    (∃ r ∈ s.pages.toList, P r) ↔ ∃ h : Handle, P (s.page h) := by
  constructor
  · rintro ⟨r, hr, hP⟩
    obtain ⟨i, hi, rfl⟩ := List.getElem_of_mem hr
    have : i < 256 := by simpa using hi
    exact ⟨BitVec.ofNat 8 i, by simpa [State.page, Nat.mod_eq_of_lt this] using hP⟩
  · rintro ⟨h, hP⟩
    exact ⟨_, by simp [State.page], hP⟩

/-- The directory's list is the records of the handles, ascending. -/
theorem State.pages_toList (s : State) : s.pages.toList = allHandles.map s.page := by
  refine List.ext_getElem (by simp [allHandles]) fun i hi _ => ?_
  have : i < 256 := by simpa using hi
  simp [allHandles, State.page, Nat.mod_eq_of_lt this]

/-! ## The reset state -/

@[simp] theorem State.page_reset (h : Handle) : State.reset.page h = PageRecord.free := by
  simp [State.page, State.reset]

@[simp] theorem State.reset_encoder : State.reset.encoder = none := rfl
@[simp] theorem State.reset_queue : State.reset.queue = [] := rfl
@[simp] theorem State.reset_view : State.reset.view = none := rfl
@[simp] theorem State.reset_delivery : State.reset.delivery = none := rfl
@[simp] theorem State.reset_pressChannel : State.reset.pressChannel = none := rfl
@[simp] theorem State.reset_proofChannel : State.reset.proofChannel = none := rfl
@[simp] theorem State.reset_sched : State.reset.sched = Scheduler.reset := rfl
@[simp] theorem State.reset_port (p : Port) : State.reset.port p = PortRec.reset := by cases p <;> rfl

theorem State.reset_blocksAgree : State.reset.BlocksAgree := by
  refine ⟨?_, ?_, ?_, ?_, ?_⟩
  · simp [State.RolesKept, State.reset, PortRec.reset]
  · simp [State.ComposeAgrees, State.reset, PortRec.reset]
  · simp [State.PressAgrees, State.reset, PortRec.reset]
  · simp [State.ProofAgrees, State.reset, PortRec.reset]
  · simp [State.RestAgrees, State.reset, Scheduler.reset]

theorem State.reset_directoryKept : State.reset.DirectoryKept := by
  refine ⟨fun h => ?_, fun h => ?_, by simp, fun h => ?_, by simp, by simp, by simp, by simp, by simp, ?_⟩
  · rw [State.page_reset]
    refine ⟨⟨fun _ => rfl, by simp [PageRecord.free]⟩, by simp [PageRecord.FillingBare, PageRecord.free],
      by simp [PageRecord.MarksKept, PageRecord.free], ?_⟩
    simp [PageRecord.CommittedKept, PageRecord.free]
  · rw [State.page_reset]
    simp [PageRecord.free]
  · rw [State.page_reset]
    simp [PageRecord.free, State.viewRefs]
  · show 256 = (Vector.replicate 256 PageRecord.free).toList.countP _
    rw [Vector.toList_replicate, List.countP_replicate]
    rfl

theorem State.reset_extentsPlaced : State.reset.ExtentsPlaced := by
  refine ⟨fun e => ?_, by simp⟩
  have pages : (State.reset.pages.toList.map fun r => r.extents.count e).sum = 0 := by
    rw [State.pages_toList]
    simp [Function.comp_def, PageRecord.free]
  have free : isFree State.reset.freeSet e = true ↔ 384 ≤ e ∧ e ≤ 32767 := by simp [State.reset, isFree]
  rw [State.placesOf, pages]
  simp [free]

theorem State.reset_unitsKept : State.reset.UnitsKept := by
  refine ⟨fun h => ?_, fun h n hn => ?_, ⟨by simp, by simp⟩, ?_⟩
  · have : State.reset.inFlight h = (0, []) := by simp [State.inFlight]
    simp [State.ExtentsCover, PageRecord.free, this]
  · rw [State.page_reset] at hn
    cases hn
  · simp [Scheduler.UnitsNamed, Scheduler.reset]

end Sys2Proof.Machine

section

open Sys2Proof Sys2Proof.Machine

/-- Settles O3: nothing is queued, sent, stored or under way after reset. -/
theorem resetMeetsInvariants : Obligations.ResetMeetsInvariants := by
  refine ⟨by simp [State.DebtInRange, Scheduler.reset], by simp [State.QueueBounded],
    by simp [State.ReadingInRange, State.reset], by simp [State.LateExcludesOutstanding], ?_, Memory.wf_reset,
    by simp [State.DownPortsQuiet, PortRec.DownQuiet, PortRec.reset],
    by simp [State.OneReplyEach, PortRec.OneReply, PortRec.replies, PortRec.reset],
    State.reset_blocksAgree, State.reset_directoryKept, State.reset_extentsPlaced,
    by simp [State.ShapesInRange, PageRecord.free], by simp [State.EncoderKept], State.reset_unitsKept⟩
  show spansWf [⟨384, 32767⟩]
  decide

end

namespace Sys2Proof.Machine

/-! ## Rest entry (R13, R38, R191) -/

theorem PageRecord.isProtected_iff (r : PageRecord) :
    r.isProtected = true ↔ r.retention = .keep ∨ r.holdReason ≠ none ∨ r.references ≠ 0 := by
  simp [PageRecord.isProtected, Option.isSome_iff_ne_none, or_assoc]

theorem PageRecord.losesAt_iff (r : PageRecord) (kept : List Nat) :
    r.losesAt kept = true ↔ (r.state = .sealed ∨ r.state = .torn ∨ r.state = .damaged) ∧
      r.retention = .volatile ∧ r.holdReason = none ∧ r.references = 0 ∧ ∃ e ∈ r.extents, e / 4096 ∉ kept := by
  simp [PageRecord.losesAt, segmentOf, and_assoc, or_assoc]

theorem State.mem_retainedSegments (s : State) (g : Nat) :
    g ∈ s.retainedSegments ↔ g < 8 ∧ (g = 0 ∨ ∃ h : Handle, (s.page h).isProtected = true ∧
      ∃ e ∈ (s.page h).extents, segmentOf e = g) := by
  rw [State.retainedSegments, List.mem_filter, List.mem_range, ← s.exists_mem_pages fun r =>
    r.isProtected = true ∧ ∃ e ∈ r.extents, segmentOf e = g]
  simp only [Bool.or_eq_true, beq_iff_eq, List.any_eq_true, Bool.and_eq_true]

@[simp] theorem State.page_losePages (s : State) (kept : List Nat) (h : Handle) :
    (s.losePages kept).page h = (s.page h).afterRest kept := mapRecords_get _ _ _ h.isLt

theorem State.isFree_losePages {s : State} (wf : s.FreeSetWf) (kept : List Nat) (e : Nat) :
    isFree (s.losePages kept).freeSet e = true ↔ isFree s.freeSet e = true ∨
      ∃ h, (s.page h).losesAt kept = true ∧ e ∈ (s.page h).extents := by
  refine (isFree_returnExtents wf _ e).trans (or_congr_right ?_)
  rw [← s.exists_mem_pages fun r => r.losesAt kept = true ∧ e ∈ r.extents]
  simp [and_assoc]

/-- A table cut down to the addresses that pass a test, read at one that does not. -/
theorem tableGet_filter_none {α : Type} {p : Nat → Bool} {a : Nat} (h : p a = false) (t : List (Nat × α)) :
    tableGet a (t.filter fun c => p c.1) = none := by
  induction t with
  | nil => rfl
  | cons x t ih =>
    obtain ⟨k, w⟩ := x
    rw [List.filter_cons]
    split
    · next hp =>
      have : k ≠ a := fun e => by simp [e, h] at hp
      rw [tableGet_cons, if_neg this, ih]
    · exact ih

theorem segmentOfByte_eq (a : Nat) : segmentOfByte a = a / 268435456 := by
  rw [segmentOfByte, Nat.div_div_eq_div_mul]

theorem Memory.keepSegments_of_mem (m : Memory) {kept : List Nat} {a : Nat} (h : segmentOfByte a ∈ kept) :
    tableGet a (m.keepSegments kept).bytes = tableGet a m.bytes ∧
      tableGet a (m.keepSegments kept).entries = tableGet a m.entries :=
  ⟨tableGet_filter (p := fun a => decide (segmentOfByte a ∈ kept)) (by simpa using h) _,
    tableGet_filter (p := fun a => decide (segmentOfByte a ∈ kept)) (by simpa using h) _⟩

theorem Memory.keepSegments_of_not_mem (m : Memory) {kept : List Nat} {a : Nat} (h : segmentOfByte a ∉ kept) :
    tableGet a (m.keepSegments kept).bytes = none ∧ tableGet a (m.keepSegments kept).entries = none :=
  ⟨tableGet_filter_none (p := fun a => decide (segmentOfByte a ∈ kept)) (by simpa using h) _,
    tableGet_filter_none (p := fun a => decide (segmentOfByte a ∈ kept)) (by simpa using h) _⟩

/-! ## Giving up work (R94, R151) -/

theorem Scheduler.withdrawWrite_eq (c : Scheduler) :
    c.withdrawWrite = { c with
      grant := match c.grant with
        | some (.encoder q _) => some (.encoder q false)
        | g => g
      encoderReq := none } := by
  unfold Scheduler.withdrawWrite
  congr 1
  cases h : c.grant with
  | none => rfl
  | some g => cases g <;> rfl

/-- A granted read of a slot in `gone` is handed to no one from now on. -/
def Grant.orphanReads (gone : DecodeSlot → Bool) : Grant → Grant
  | .press r live => .press r (live && !gone r.slot)
  | .proof r live => .proof r (live && !gone r.slot)
  | g => g

/-- The scheduler once the reads of the slots in `gone` have been given up. -/
def Scheduler.withoutReads (c : Scheduler) (gone : DecodeSlot → Bool) : Scheduler :=
  { c with grant := c.grant.map (·.orphanReads gone)
           pressReq := c.pressReq.filter fun q => !gone q.slot
           proofReq := c.proofReq.filter fun q => !gone q.slot }

theorem Scheduler.withdrawRead_eq (c : Scheduler) (k : DecodeSlot) :
    c.withdrawRead k = c.withoutReads fun x => x == k := rfl

theorem Grant.orphanReads_orphanReads (g : Grant) (p q : DecodeSlot → Bool) :
    (g.orphanReads p).orphanReads q = g.orphanReads fun x => p x || q x := by
  cases g <;> simp [Grant.orphanReads, Bool.and_assoc]

theorem Scheduler.withoutReads_withoutReads (c : Scheduler) (p q : DecodeSlot → Bool) :
    (c.withoutReads p).withoutReads q = c.withoutReads fun x => p x || q x := by
  simp [Scheduler.withoutReads, Option.filter_filter, Function.comp_def, Grant.orphanReads_orphanReads]

theorem Scheduler.withoutPress_eq (c : Scheduler) :
    c.withoutPress = c.withoutReads fun x => x == .press .a || x == .press .b := by
  rw [Scheduler.withoutPress, Scheduler.withdrawRead_eq, Scheduler.withdrawRead_eq,
    Scheduler.withoutReads_withoutReads]

/-! ## The rest condition (R190) -/

theorem PortRec.quiet_iff (r : PortRec) : r.quiet = true ↔ r.state = .resting ∨ r.state = .down := by
  simp [PortRec.quiet]

theorem State.restCondition_iff (s : State) : s.restCondition = true ↔
    (∀ p ∈ [Port.compose, .press, .proof], (s.port p).state = .resting ∨ (s.port p).state = .down) ∧
      ∃ p ∈ [Port.compose, .press, .proof], (s.port p).state = .resting := by
  simp [State.restCondition, PortRec.quiet_iff, and_assoc, or_assoc]

theorem State.judgeRest_eq (s : State) : s.judgeRest =
    if s.mode = .active ∧ (∀ p ∈ [Port.compose, .press, .proof], (s.port p).state = .resting ∨ (s.port p).state = .down) ∧
        (∃ p ∈ [Port.compose, .press, .proof], (s.port p).state = .resting) then
      State.checkDrain { s with mode := .enteringRest, sched := { s.sched with drain := true } }
    else s := by
  simp only [State.judgeRest, State.restCondition_iff]

/-! ## The FILLING page torn (R11, R84, R89) -/

/-- The extents a commit in flight has taken. -/
def EncoderPhase.taken : EncoderPhase → List Nat
  | .committing (.writing o) => o.extentsTaken
  | _ => []

theorem EncoderPhase.taken_writing (o : CommitOutcome) :
    (EncoderPhase.committing (.writing o)).taken = o.extentsTaken := rfl

theorem EncoderPhase.taken_other {x : EncoderPhase} (h : ∀ o, x ≠ .committing (.writing o)) : x.taken = [] := by
  unfold EncoderPhase.taken
  split
  · next o => exact absurd rfl (h o)
  · rfl

theorem State.cancelCommit_writing (s : State) {w : EncoderWork} {o : CommitOutcome}
    (ho : w.phase = .committing (.writing o)) : s.cancelCommit w =
      ((s.updateSched (·.withdrawWrite)).giveBack o.extentsTaken).updatePage w.handle
        (·.dropTail o.extentsTaken.length) := by
  simp only [State.cancelCommit, ho]

theorem State.cancelCommit_other (s : State) {w : EncoderWork} (h : ∀ o, w.phase ≠ .committing (.writing o)) :
    s.cancelCommit w = s.updateSched (·.withdrawWrite) := by
  unfold State.cancelCommit
  dsimp only
  split
  · next o ho => exact absurd ho (h o)
  · rfl

/-- The FILLING page goes TORN without the extents its commit took, and they go back. -/
theorem State.tear_eq {s : State} {w : EncoderWork} (hw : s.encoder = some w) :
    s.tear = { s.setPage w.handle
        { s.page w.handle with
          state := .torn
          extents := (s.page w.handle).extents.take
            ((s.page w.handle).extents.length - w.phase.taken.length) } with
      freeSet := returnExtents w.phase.taken s.freeSet
      encoder := none
      sched := s.sched.withdrawWrite } := by
  rw [State.tear, hw]
  dsimp only
  by_cases writing : ∃ o, w.phase = .committing (.writing o)
  · obtain ⟨o, ho⟩ := writing
    rw [s.cancelCommit_writing ho, ho, EncoderPhase.taken_writing]
    unfold State.updatePage
    rw [State.setPage_setPage, State.page_setPage]
    rfl
  · have other : ∀ o, w.phase ≠ .committing (.writing o) := fun o ho => writing ⟨o, ho⟩
    rw [s.cancelCommit_other other, EncoderPhase.taken_other other, List.length_nil, Nat.sub_zero, List.take_length]
    rfl

theorem State.tear_none {s : State} (h : s.encoder = none) : s.tear = s := by rw [State.tear, h]

theorem State.dropView_none {s : State} (h : s.view = none) : s.dropView = { s.idleProof with proofLate := false } := by
  rw [State.dropView, h]

theorem State.dropView_some {s : State} {v : ViewRecord} (h : s.view = some v) :
    s.dropView = { s.idleProof.dropRefs v.handle 1 with view := none, proofLate := false } := by
  rw [State.dropView, h]

theorem State.dropRefs_idleProof (s : State) (h : Handle) (n : Nat) : s.idleProof.dropRefs h n =
    { s.dropRefs h n with sched := s.sched.withdrawRead .proof, proofChannel := none } := by
  have same : s.idleProof.page h = s.page h := rfl
  simp only [State.dropRefs, same]
  split_ifs <;> rfl

theorem State.dropView_lost {s : State} {v : ViewRecord} (h : s.view = some v) :
    s.dropView.updatePort .proof (·.lost) = { s.dropRefs v.handle 1 with
      proof := s.proof.lost
      proofLate := false
      proofChannel := none
      view := none
      sched := s.sched.withdrawRead .proof } := by
  rw [State.dropView_some h, State.dropRefs_idleProof, ← s.dropRefs_proof v.handle 1]
  rfl

theorem exec_linkLoss {s : State} {p : Port} (up : (s.port p).state ≠ .down) :
    exec (.linkLoss p) s = .next ((s.loseWork p).updatePort p (·.lost)).judgeRest := by
  show Host.Outcome.next _ = _
  rw [if_neg up]

end Sys2Proof.Machine

section

open Sys2Proof Sys2Proof.Machine

/-- Settles O47: what is kept is decided once, and the directory, the store and the scheduler follow it. -/
theorem restEntryKeepsProtectedPages : Obligations.RestEntryKeepsProtectedPages := by
  refine fun s => ⟨fun h => if_neg h, fun drain debt grant wf => ⟨s.retainedSegments, ?_⟩⟩
  rw [show s.checkDrain = s.completeRest from if_pos ⟨drain, debt, grant⟩]
  simp only [← PageRecord.losesAt_iff]
  refine ⟨fun g => ?_, fun h => ⟨fun lost => ?_, fun stays => ?_⟩, State.isFree_losePages wf _, fun a ha => ?_,
    fun a ha => ?_, fun g => redraw_get _ _ _ g.isLt, rfl⟩
  · rw [State.mem_retainedSegments]
    refine and_congr_right fun _ => or_congr_right (exists_congr fun h => ?_)
    rw [PageRecord.isProtected_iff]
    exact ⟨fun ⟨safe, e, he, hg⟩ => ⟨e, he, hg, safe⟩, fun ⟨e, he, hg, safe⟩ => ⟨safe, e, he, hg⟩⟩
  · exact (State.page_losePages ..).trans (if_pos lost)
  · exact (State.page_losePages ..).trans (if_neg stays)
  · rw [← segmentOfByte_eq] at ha
    obtain ⟨bytes, entries⟩ := s.store.keepSegments_of_mem ha
    exact ⟨bytes, entries, s.store.readByte_keepSegments ha _, s.store.readEntry_keepSegments ha _⟩
  · rw [← segmentOfByte_eq] at ha
    exact s.store.keepSegments_of_not_mem ha

/-- Settles O48: what giving up work does to the scheduler, and what each port's loss gives up. -/
theorem linkLossDropsTheWork : Obligations.LinkLossDropsTheWork := by
  refine ⟨fun c => ?_, fun s => ?_⟩
  · have spec : ∀ gone, c.withoutReads gone = { c with
        grant := match c.grant with
          | some (.press q live) => some (.press q (if gone q.slot then false else live))
          | some (.proof q live) => some (.proof q (if gone q.slot then false else live))
          | g => g
        pressReq := match c.pressReq with
          | some q => if gone q.slot then none else some q
          | none => none
        proofReq := match c.proofReq with
          | some q => if gone q.slot then none else some q
          | none => none } := by
      intro gone
      have request : ∀ q : Option ReadReq, q.filter (fun q => !gone q.slot) =
          match q with | some q => if gone q.slot then none else some q | none => none := by
        rintro (_ | q)
        · rfl
        · cases h : gone q.slot <;> simp [Option.filter, h]
      unfold Scheduler.withoutReads
      rw [request, request]
      congr 1
      rcases c.grant with _ | g
      · rfl
      · cases g <;> simp [Grant.orphanReads] <;> cases gone _ <;> simp
    exact ⟨fun k => (c.withdrawRead_eq k).trans (spec _), c.withoutPress_eq.trans (spec _), c.withdrawWrite_eq⟩
  · dsimp only
    refine ⟨fun up => ⟨fun idle => ?_, fun w hw => ?_⟩, fun up => ?_, fun up => ⟨fun noView idle => ?_, fun v hv => ?_⟩⟩
    · rw [exec_linkLoss (p := .compose) up, State.judgeRest_eq, State.loseWork, State.tear_none idle]
      rfl
    · rw [exec_linkLoss (p := .compose) up, State.judgeRest_eq, State.loseWork, State.tear_eq hw]
      rfl
    · rw [exec_linkLoss (p := .press) up, State.judgeRest_eq, State.loseWork]
      rfl
    · rw [exec_linkLoss (p := .proof) up, State.judgeRest_eq, State.loseWork, State.dropView_none noView,
        State.idleProof, ← idle]
      rfl
    · rw [exec_linkLoss (p := .proof) up, State.judgeRest_eq, State.loseWork, State.dropView_lost hv]
      rfl

end

namespace Sys2Proof.Machine

/-! ## The FILLING page torn, record by record -/

/-- The extents taken by the commit in flight, none with no such commit. -/
def State.commitExtents (s : State) : List Nat :=
  match s.encoder with
  | some w => w.phase.taken
  | none => []

theorem State.tear_page_filling {s : State} {w : EncoderWork} (hw : s.encoder = some w) :
    s.tear.page w.handle = { s.page w.handle with
      state := .torn
      extents := (s.page w.handle).extents.take ((s.page w.handle).extents.length - s.commitExtents.length) } := by
  rw [State.tear_eq hw, State.commitExtents, hw]
  exact State.page_setPage ..

theorem State.tear_page_other {s : State} {h : Handle} (other : ∀ w, s.encoder = some w → w.handle ≠ h) :
    s.tear.page h = s.page h := by
  cases hw : s.encoder with
  | none => rw [State.tear_none hw]
  | some w =>
    rw [State.tear_eq hw]
    exact State.page_setPage_ne _ _ (other w hw).symm

theorem State.tear_freeSet (s : State) : s.tear.freeSet = returnExtents s.commitExtents s.freeSet := by
  unfold State.commitExtents
  cases hw : s.encoder with
  | none => rw [State.tear_none hw]; rfl
  | some w => rw [State.tear_eq hw]

theorem State.tear_releasePending (s : State) (h : Handle) :
    (s.tear.page h).releasePending = (s.page h).releasePending := by
  by_cases filling : ∃ w, s.encoder = some w ∧ w.handle = h
  · obtain ⟨w, hw, rfl⟩ := filling
    rw [State.tear_page_filling hw]
  · rw [State.tear_page_other fun w hw e => filling ⟨w, hw, e⟩]

theorem State.tear_encoder (s : State) : s.tear.encoder = none := by
  cases hw : s.encoder with
  | none => rw [State.tear_none hw, hw]
  | some w => rw [State.tear_eq hw]

/-! ## The directory after device reset (R25) -/

@[simp] theorem State.page_resetDirectory (s : State) (h : Handle) :
    s.resetDirectory.page h = (s.page h).deviceReset := mapRecords_get _ _ _ h.isLt

theorem State.isFree_resetDirectory {s : State} (wf : s.FreeSetWf) (e : Nat) :
    isFree s.resetDirectory.freeSet e = true ↔ isFree s.freeSet e = true ∨
      ∃ h, (s.page h).releasePending = true ∧ e ∈ (s.page h).extents := by
  refine (isFree_returnExtents wf _ e).trans (or_congr_right ?_)
  rw [← s.exists_mem_pages fun r => r.releasePending = true ∧ e ∈ r.extents]
  simp only [List.mem_flatMap, List.mem_filter, and_assoc]

theorem State.freeRecords_resetDirectory (s : State) :
    s.resetDirectory.freeRecords = s.freeRecords + allHandles.countP fun h => (s.page h).releasePending := by
  show _ + s.pages.toList.countP _ = _
  rw [State.pages_toList, List.countP_map]
  rfl

/-! ## The scheduler after device reset and after a wake (R193, R194) -/

/-- The scheduler with no request waiting and every granted transfer handed to no one. -/
def Scheduler.bare (c : Scheduler) : Scheduler :=
  { c with
    grant := c.grant.map fun g => match g with
      | .press q _ => .press q false
      | .encoder q _ => .encoder q false
      | .proof q _ => .proof q false
      | .refresh => .refresh
    pressReq := none
    encoderReq := none
    proofReq := none }

theorem Scheduler.withdrawWrite_withdrawWrite (c : Scheduler) :
    c.withdrawWrite.withdrawWrite = c.withdrawWrite := by
  unfold Scheduler.withdrawWrite
  rcases c.grant with _ | g
  · rfl
  · cases g <;> rfl

theorem State.tear_sched_withdrawWrite (s : State) : s.tear.sched.withdrawWrite = s.sched.withdrawWrite := by
  cases hw : s.encoder with
  | none => rw [State.tear_none hw]
  | some w => rw [State.tear_eq hw, Scheduler.withdrawWrite_withdrawWrite]

/-- The encoder's write and the reads of every slot given up leave nothing. -/
theorem Scheduler.bare_eq (c : Scheduler) : c.withdrawWrite.withoutPress.withdrawRead .proof = c.bare := by
  have every : ∀ k : DecodeSlot, (k == .press .a || k == .press .b || k == .proof) = true := by
    rintro (⟨_ | _⟩ | _) <;> rfl
  have nothing : ∀ q : Option ReadReq, q.filter (fun _ => false) = none := by rintro (_ | _) <;> rfl
  rw [Scheduler.withoutPress_eq, Scheduler.withdrawRead_eq, Scheduler.withoutReads_withoutReads]
  unfold Scheduler.withdrawWrite Scheduler.withoutReads Scheduler.bare
  simp only [every, Bool.not_true, nothing]
  rcases c.grant with _ | g
  · rfl
  · cases g <;> simp [Grant.orphanWrite, Grant.orphanReads]

/-- What a wake or a device reset does to the store, field by field. -/
theorem State.wakeStore_eq (s : State) : s.wakeStore = { s with
    mode := .active
    retained := if s.mode = .retained then none else s.retained
    sched := match s.mode with
      | .active => s.sched
      | .enteringRest => { s.sched with drain := false }.grantNext s.thermal
      | .retained => (s.sched.leaveRetention s.thermal).grantNext s.thermal } := by
  unfold State.wakeStore
  cases hm : s.mode with
  | active => simp only [← hm, if_neg (show s.mode ≠ .retained by simp [hm])]
  | _ => rfl

/-- Both deliveries dropped and the queue and the references gone, field by field. -/
theorem State.givenUp_eq (u : State) : (u.updateSched (·.withdrawWrite)).dropDeliveries.resetDirectory = { u with
    pressLate := false
    proofLate := false
    pages := u.resetDirectory.pages
    freeSet := u.resetDirectory.freeSet
    freeRecords := u.resetDirectory.freeRecords
    queue := []
    delivering := false
    pressChannel := none
    proofChannel := none
    delivery := none
    view := none
    sched := u.sched.withdrawWrite.withoutPress.withdrawRead .proof } := by
  simp only [State.updateSched, State.dropDeliveries, State.dropDelivery, State.idlePress, State.idleProof,
    State.resetDirectory, Scheduler.withoutPress]

/-- The state after device reset before the store wakes. -/
def State.allGivenUp (s : State) : State :=
  { (s.tear.updateSched (·.withdrawWrite)).dropDeliveries.resetDirectory with
    compose := s.compose.deviceReset
    press := s.press.deviceReset
    proof := s.proof.deviceReset }

theorem State.allGivenUp_eq (s : State) : s.allGivenUp = { s with
    compose := ⟨.down, none, [], false, false, []⟩
    press := ⟨.down, none, [], false, false, []⟩
    proof := ⟨.down, none, [], false, false, []⟩
    pressLate := false
    proofLate := false
    pages := s.tear.resetDirectory.pages
    freeSet := s.tear.resetDirectory.freeSet
    freeRecords := s.tear.resetDirectory.freeRecords
    queue := []
    delivering := false
    encoder := none
    pressChannel := none
    proofChannel := none
    delivery := none
    view := none
    sched := s.sched.bare } := by
  rw [State.allGivenUp, State.givenUp_eq, s.tear_encoder, s.tear_sched_withdrawWrite, Scheduler.bare_eq]
  simp only [State.tear_store, State.tear_undefinedDraws, State.tear_lastReading, State.tear_thermal,
    State.tear_mode, State.tear_retained, State.tear_pending]
  rfl

theorem exec_deviceReset (s : State) : exec .deviceReset s = .next s.allGivenUp.wakeStore := rfl

end Sys2Proof.Machine

section

open Sys2Proof Sys2Proof.Machine

/-- Settles O49: the work is given up first, the directory then loses its references, and the store wakes. -/
theorem deviceResetGivesUpAllWork : Obligations.DeviceResetGivesUpAllWork := by
  intro s wf kept
  dsimp only
  refine ⟨_, exec_deviceReset s, ?_⟩
  rw [State.wakeStore_eq, State.allGivenUp_eq]
  have wf' : s.tear.FreeSetWf := by
    rw [State.FreeSetWf, State.tear_freeSet]
    exact spansWf_returnExtents wf _
  refine ⟨fun p => by cases p <;> rfl, fun h => ⟨?_, fun other => ?_⟩, fun e => ?_, ?_, ?_, rfl⟩
  · rintro ⟨w, hw, rfl⟩
    refine (State.page_resetDirectory _ _).trans ?_
    rw [State.tear_page_filling hw, PageRecord.deviceReset, if_neg (by simp [kept w hw])]
    rfl
  · refine (State.page_resetDirectory _ _).trans ?_
    rw [State.tear_page_other fun w hw e => other ⟨w, hw, e⟩]
    rfl
  · refine (State.isFree_resetDirectory wf' e).trans ?_
    rw [State.tear_freeSet, isFree_returnExtents wf, or_assoc]
    refine or_congr_right (or_congr_right (exists_congr fun h => ?_))
    rw [State.tear_releasePending]
    refine and_congr_right fun pending => ?_
    rw [State.tear_page_other fun w hw e => by simp [← e, kept w hw] at pending]
  · refine (State.freeRecords_resetDirectory _).trans ?_
    simp only [State.tear_freeRecords, State.tear_releasePending]
  · cases s.mode <;> rfl

end

/-! # What a command can do, as a chain of changes

Every command but a power-on reset and an OPEN_PAGE that opens a page is a chain of the changes listed here
(`exec_cases`). An invariant of the part is proved once for each change, and `exec_keeps` carries it to every
command. A chain keeps, beside the state, the port that owes the reply to a command it has taken (R183). -/

namespace Sys2Proof.Machine

/-- How a port's record moves with no command taken, answered or given up. -/
inductive PortRec.Moves (r : PortRec) : PortRec → Prop
  | sends (f : Frame) (other : f.isReply = false) : r.Moves (r.send f)
  | flags (frameCheck stray : Bool) : r.Moves { r with frameCheck := frameCheck, stray := stray }
  | sent : r.Moves r.sentOne

/-- How the scheduler moves, but for its expiries, its requests and its self-retention. -/
inductive Scheduler.Moves (t : Thermal) (c : Scheduler) : Scheduler → Prop
  | grants : c.Moves t (c.grantNext t)
  | dropsWrite : c.Moves t c.withdrawWrite
  | dropsRead (k : DecodeSlot) : c.Moves t (c.withdrawRead k)
  | completes : c.Moves t c.release
  | drains (asked : Bool) : c.Moves t { c with drain := asked }
  | wakes : c.Moves t (c.leaveRetention t)

/-- The plane-bands a press channel decodes lie in its page, and their entries in its stream. -/
def PressChannel.Placed (c : PressChannel) (stream : Nat) : Prop :=
  ∀ k band plane work planes, c.buffer k = .decoding band plane work planes →
    c.shape.Has band plane ∧ work.EntrySound (c.shape.raw band) stream

/-- The plane-band a proof channel decodes lies in its page, and its entry in its stream. -/
def ProofChannel.Placed (c : ProofChannel) (stream : Nat) : Prop :=
  c.shape.Has c.band c.plane ∧
    ∀ work, c.buffer = .decoding work → work.EntrySound (c.shape.raw c.band) stream

/-- The range and the mask of a view lie in a page of this shape. -/
def ViewRecord.Within (v : ViewRecord) (p : Shape) : Prop :=
  v.endBand ≤ p.bands ∧ (∀ j ∈ v.planeMask, j < p.planes) ∧ v.planeMask ≠ []

/-- The block whose work a port carries is idle. -/
def State.idleAt (s : State) : Port → Prop
  | .compose => s.encoder = none
  | .press => s.delivery = none
  | .proof => s.view = none

/-- The encoder's page is FREE only if it was FREE in the directory `v`. -/
def State.EncoderSince (s : State) (v : Vector PageRecord 256) : Prop :=
  ∀ w, s.encoder = some w → (s.page w.handle).state = .free → v[w.handle.toNat].state = .free

/-- One change of the state, in an event that found the directory `v`. The first and the third index are the
port that owes a reply before and after. -/
inductive Change (v : Vector PageRecord 256) : Option Port → State → Option Port → State → Prop
  -- ports
  | port {o s} (p : Port) {r : PortRec} (moves : (s.port p).Moves r) : Change v o s o (s.setPort p r)
  | turns {o s} (p : Port) (st : PortState) (up : st ≠ .down)
      (quiet : (s.port p).state ≠ .inbound ∧ (s.port p).state ≠ .outbound ∨ s.idleAt p)
      (role : st = .idle ∨ st = .resting) : Change v o s o (s.setPortState p st)
  | takes {s} (p : Port) (code : Byte) (up : (s.port p).state ≠ .down) (idle : (s.port p).outstanding = none) :
      Change v none s (some p) (s.updatePort p (·.take code))
  | replies {s} (p : Port) (code : Byte) (x : Result) (l : List Byte) :
      Change v (some p) s none (s.reply p code x l)
  | loses {s} (p : Port) (idle : s.idleAt p) : Change v none s none (s.updatePort p (·.lost))
  -- the encoder
  | defers {s w} (d : DeferredReply) (working : s.encoder = some w) :
      Change v (some .compose) s none (s.defer w d)
  | undefers {s w d} (working : s.encoder = some w) (deferred : w.deferred = some d) :
      Change v none s (some .compose) { s with encoder := some { w with deferred := none } }
  | line {o s w data} (working : s.encoder = some w) (ready : w.phase = .ready)
      (whole : data.length = (s.page w.handle).width) :
      Change v o s o { s with encoder := some (w.takeLine (s.page w.handle).shape data) }
  | coded {o s w} (working : s.encoder = some w) (coding : w.phase = .lineCoding) :
      Change v o s o { s with encoder := some { w.codeLast (s.page w.handle).shape with phase := .ready } }
  | refused {o s w} (working : s.encoder = some w) (full : w.phase = .committing .finishing) :
      Change v o s o { s with encoder := some (w.emptied .ready w.expected) }
  | extentsTaken {o s w es f} (working : s.encoder = some w) (full : w.phase = .committing .finishing)
      (take : takeExtents (s.page w.handle).retention
        (extentsNeeded (s.page w.handle)
          ((w.codeLast (s.page w.handle).shape).outcome (s.page w.handle).streamLength).length) s.freeSet =
        some (es, f)) :
      Change v o s o
        { s.setPage w.handle { s.page w.handle with extents := (s.page w.handle).extents ++ es } with
          freeSet := f
          encoder := some { w.codeLast (s.page w.handle).shape with
            phase := .committing (.writing
              { (w.codeLast (s.page w.handle).shape).outcome (s.page w.handle).streamLength with
                extentsTaken := es }) } }
  | wrote {o s w x} (working : s.encoder = some w) (writing : w.phase = .committing (.writing x))
      (left : x.writesRemaining - 1 ≠ 0) :
      Change v o s o { s with
        encoder := some { w with
          phase := .committing (.writing { x with writesRemaining := x.writesRemaining - 1 }) } }
  | committed {o s w x} (working : s.encoder = some w) (writing : w.phase = .committing (.writing x)) :
      Change v o s o
        { s.setPage w.handle ((s.page w.handle).commitOne x.length) with
          encoder := some (w.emptied ((s.page w.handle).commitOne x.length).encoderPhase
            ((s.page w.handle).commitOne x.length).expectedPosition) }
  | resumes {o s} (h : Handle) (ok : continueRefusal h (s.page h) = none) (idle : s.compose.state = .idle) :
      Change v o s o (s.continueAt h)
  | seals {o s w} (working : s.encoder = some w) (still : w.phase.isCommitting = false)
      (all : (s.page w.handle).allCommitted = true) (since : s.EncoderSince v) :
      Change v o s o (({ s.updatePage w.handle (fun r => { r with state := .sealed }) with
        encoder := none }).setPortState .compose .idle)
  | abandons {o s w} (working : s.encoder = some w) (still : w.phase.isCommitting = false) :
      Change v o s o (({ s.freePage w.handle with encoder := none }).setPortState .compose .idle)
  | tears {o s} (since : s.EncoderSince v) : Change v o s o s.tear
  -- the directory and the queue
  | enqueues {o s} (h : Handle) (n : Nat) (ok : enqueueRefusal n s.queue.length (s.page h) = none) :
      Change v o s o { s.addRefs h n with queue := s.queue ++ List.replicate n h }
  | rebinds {o s} (old new : Handle) (ok : rebindRefusal (s.page new) = none) :
      Change v o s o (({ s with queue := s.reboundQueue old new }.addRefs new (s.rebindCount old new)).dropRefs old
        (s.rebindCount old new))
  | skips {o s} (idle : s.press.state = .idle) : Change v o s o s.removeHead
  | marksPending {o s} (h : Handle) (pending : (s.page h).releaseClass = .pending) :
      Change v o s o (s.setPage h { s.page h with releasePending := true })
  | frees {o s} (h : Handle) (freed : (s.page h).releaseClass = .freed) : Change v o s o (s.freePage h)
  | holds {o s} (h : Handle) (reason : Byte) (ok : holdRefusal reason (s.page h) = none) :
      Change v o s o (s.updatePage h fun r => { r with holdReason := some reason })
  | lifts {o s} (h : Handle) : Change v o s o (s.updatePage h fun r => { r with holdReason := none })
  | rests {o s} (drain : s.sched.drain = true) (debt : s.sched.debt ≤ 0) (grant : s.sched.grant = none) :
      Change v o s o s.completeRest
  | clears {o s} (idle : s.delivery = none) (channel : s.pressChannel = none) :
      Change v o s o ({ s.idleProof with view := none, proofLate := false }).resetDirectory
  -- a press delivery
  | begins {o s} (h : Handle) (startBand lead trail window : Nat) (head : s.queue.head? = some h)
      (ok : startRefusal startBand lead trail (s.page h) = none) (idle : s.press.state = .idle) :
      Change v o s o ({ s with
        delivering := true
        delivery := some (Delivery.begin h (s.page h).shape startBand lead trail window)
        pressChannel := some (PressChannel.begin h (s.page h).shape startBand) }.setPortState .press .outbound)
  | delivery {o s d} (d' : Delivery) (running : s.delivery = some d) (handle : d'.handle = d.handle)
      (late : d'.outstanding = none ∨ d'.outstanding = d.outstanding ∨ s.pressLate = false) :
      Change v o s o { s with delivery := some d' }
  | channel {o s c} (c' : PressChannel) (active : s.pressChannel = some c) (handle : c'.handle = c.handle)
      (shape : c'.shape = c.shape)
      (placed : 1 ≤ c.shape.planes → c.Placed (s.page c.handle).streamLength →
        c'.Placed (s.page c.handle).streamLength) :
      Change v o s o { s with pressChannel := some c' }
  | pressDamages {o s c k band plane work planes} (active : s.pressChannel = some c)
      (decoding : c.buffer k = .decoding band plane work planes) :
      Change v o s o (s.reportDamage c.handle band)
  | endsPress {o s} (e : Ending) (resume : Nat) : Change v o s o (s.endPress e resume)
  | dropsPress {o s} : Change v o s o s.dropDelivery
  | pressOnTime {o s} : Change v o s o { s with pressLate := false }
  -- a view
  | views {o s} (q : ViewParams) (ok : viewRefusal q (s.page q.handle) = none) (idle : s.proof.state = .idle) :
      Change v o s o ({ s.addRefs q.handle 1 with
        view := some (ViewRecord.begin q (s.page q.handle))
        proofChannel := some (ProofChannel.begin (ViewRecord.begin q (s.page q.handle))) }.setPortState
          .proof .outbound)
  | view {o s x} (x' : ViewRecord) (running : s.view = some x) (handle : x'.handle = x.handle)
      (range : x'.endBand = x.endBand) (mask : x'.planeMask = x.planeMask)
      (late : x'.outstanding = none ∨ x'.outstanding = x.outstanding ∨ s.proofLate = false) :
      Change v o s o { s with view := some x' }
  | proofChannel {o s c} (c' : ProofChannel) (active : s.proofChannel = some c) (handle : c'.handle = c.handle)
      (shape : c'.shape = c.shape)
      (placed : ∀ x, s.view = some x → x.Within c.shape → c.Placed (s.page c.handle).streamLength →
        c'.Placed (s.page c.handle).streamLength) :
      Change v o s o { s with proofChannel := some c' }
  | proofDamages {o s c} (active : s.proofChannel = some c) : Change v o s o (s.reportDamage c.handle c.band)
  | endsView {o s} (e : Ending) (resume : Nat) : Change v o s o (s.endView e resume)
  | dropsView {o s} : Change v o s o s.dropView
  | proofOnTime {o s} : Change v o s o { s with proofLate := false }
  -- the store
  | stores {o s} (m : Memory) (kept : s.store.wf → m.wf) : Change v o s o { s with store := m }
  | sched {o s c} (moves : s.sched.Moves s.thermal c) : Change v o s o { s with sched := c }
  | presentsWrite {o s} : Change v o s o s.presentWrite
  | presentsPress {o s} : Change v o s o s.presentPress
  | presentsProof {o s} : Change v o s o s.presentProof
  | mode {o s} (m : StoreMode) (retained : Option (List Nat)) :
      Change v o s o { s with mode := m, retained := retained }

/-- A chain of changes. -/
inductive Changes (v : Vector PageRecord 256) : Option Port → State → Option Port → State → Prop
  | done {o s} : Changes v o s o s
  | next {o s o' s' o'' t} (first : Change v o s o' s') (rest : Changes v o' s' o'' t) : Changes v o s o'' t

namespace Changes

variable {v : Vector PageRecord 256}

theorem one {o o' s t} (h : Change v o s o' t) : Changes v o s o' t := .next h .done

theorem trans {o o' o'' s s' t} (first : Changes v o s o' s') (rest : Changes v o' s' o'' t) : Changes v o s o'' t := by
  induction first with
  | done => exact rest
  | next c _ ih => exact .next c (ih rest)

theorem append {o o' o'' s s' t} (first : Changes v o s o' s') (last : Change v o' s' o'' t) : Changes v o s o'' t :=
  first.trans (.one last)

/-- What every change keeps, a chain keeps. -/
theorem keeps {J : Option Port → State → Prop} (step : ∀ {o s o' t}, Change v o s o' t → J o s → J o' t)
    {o o' s t} (h : Changes v o s o' t) : J o s → J o' t := by
  induction h with
  | done => exact id
  | next c _ ih => exact fun j => ih (step c j)

end Changes

end Sys2Proof.Machine

/-! # The operations of the model as chains of changes -/

namespace Sys2Proof.Machine

namespace Changes

variable {v : Vector PageRecord 256} {o : Option Port} {s : State}

/-! ## Ports, the scheduler and rest control -/

theorem send (p : Port) {f : Frame} (other : f.isReply = false) : Changes v o s o (s.send p f) :=
  .one (.port p (.sends f other))

theorem markStray (p : Port) : Changes v o s o (s.markStray p) :=
  .one (.port p (.flags (s.port p).frameCheck true))

theorem strayBlock (p : Port) : Changes v o s o (s.strayBlock p) :=
  (send p rfl).trans (markStray p)

theorem grantNext : Changes v o s o s.grantNext := .one (.sched .grants)

theorem checkDrain : Changes v o s o s.checkDrain := by
  rcases s.checkDrain_cases with ⟨drain, debt, grant, e⟩ | ⟨-, e⟩ <;> rw [e]
  · exact .one (.rests drain debt grant)
  · exact .done

theorem settle : Changes v o s o s.settle := grantNext.trans checkDrain

theorem judgeRest : Changes v o s o s.judgeRest := by
  unfold State.judgeRest
  split
  · exact .next (.mode .enteringRest s.retained) (.next (.sched (.drains true)) checkDrain)
  · exact .done

theorem wakeStore : Changes v o s o s.wakeStore := by
  unfold State.wakeStore
  split
  · exact .done
  · exact .next (.mode .active s.retained) (.next (.sched (.drains false)) grantNext)
  · exact .next (.mode .active none) (.next (.sched .wakes) grantNext)

/-- A command is judged: what its rule does with it is left to `body` (R183). -/
theorem judge {p : Port} {c : Cmd} {body : State → State}
    (rule : s.takes p c → Changes v (some p) (s.taken p c) none (body (s.taken p c))) :
    Changes v none s none (s.judge p c body) := by
  rcases s.judge_cases p c body with ⟨-, e⟩ | ⟨-, -, e⟩ | ⟨up, idle, -, e⟩ | ⟨ht, e⟩ <;> rw [e]
  · exact .done
  · exact markStray p
  · rw [← State.taken_reply up]
    exact .next (.takes p c.code up idle) (.one (.replies p c.code .illegal []))
  · exact .next (.takes p c.code ht.1 ht.2.1) (rule ht)

theorem reply (p : Port) (c : Byte) (x : Result) (l : List Byte) : Changes v (some p) s none (s.reply p c x l) :=
  .one (.replies p c x l)

/-! ## The encoder -/

theorem presentWrite : Changes v o s o s.presentWrite := .one .presentsWrite
theorem presentPress : Changes v o s o s.presentPress := .one .presentsPress
theorem presentProof : Changes v o s o s.presentProof := .one .presentsProof

theorem sealNow {w : EncoderWork} (working : s.encoder = some w) (still : w.phase.isCommitting = false)
    (since : s.EncoderSince v) : Changes v (some .compose) s none (s.sealNow w) := by
  unfold State.sealNow
  split
  · next all => exact .next (.seals working still all since) (reply ..)
  · exact reply ..

theorem abandonNow {w : EncoderWork} (working : s.encoder = some w) (still : w.phase.isCommitting = false) :
    Changes v (some .compose) s none (s.abandonNow w) :=
  .next (.abandons working still) (reply ..)

theorem judgeDeferred (still : ∀ w, s.encoder = some w → w.phase.isCommitting = false)
    (since : s.EncoderSince v) : Changes v none s none s.judgeDeferred := by
  unfold State.judgeDeferred
  split
  · exact .done
  · next w hw =>
    split
    · exact .done
    · next d => exact .next (.undefers hw d) (sealNow (w := { w with deferred := none }) rfl (still w hw) fun _ e => by
        cases e
        exact since w hw)
    · next d => exact .next (.undefers hw d) (abandonNow (w := { w with deferred := none }) rfl (still w hw))

theorem completeCommit {w : EncoderWork} {x : CommitOutcome} (working : s.encoder = some w)
    (writing : w.phase = .committing (.writing x)) (since : s.EncoderSince v) (n : Nat) :
    Changes v none s none (s.completeCommit w { x with writesRemaining := n }) := by
  refine .next (.committed working writing) ((send .compose rfl).trans (judgeDeferred (fun w' hw' => ?_) fun w' hw' => ?_))
  · cases hw'
    show (PageRecord.encoderPhase _).isCommitting = false
    unfold PageRecord.encoderPhase
    split <;> rfl
  · cases hw'
    intro free
    have same := congrArg PageRecord.state (s.page_setPage w.handle ((s.page w.handle).commitOne x.length))
    exact since w working (same.symm.trans free)

theorem refuseCommit {w : EncoderWork} (working : s.encoder = some w)
    (full : w.phase = .committing .finishing) (since : s.EncoderSince v) :
    Changes v none s none (s.refuseCommit w) :=
  .next (.refused working full) ((send .compose rfl).trans
    (judgeDeferred (fun w' hw' => by cases hw'; rfl) fun w' hw' => by cases hw'; exact since w working))

theorem writeDone (since : s.EncoderSince v) : Changes v none s none s.writeDone := by
  unfold State.writeDone
  split
  · next w hw =>
    split
    · next x hx =>
      dsimp only
      split
      · exact completeCommit hw hx since _
      · next left => exact .next (.wrote hw hx left) presentWrite
    · exact .done
  · exact .done

theorem takeForCommit {w : EncoderWork} (working : s.encoder = some w)
    (full : w.phase = .committing .finishing) (since : s.EncoderSince v) :
    Changes v none s none (s.takeForCommit w) := by
  rw [State.takeForCommit]
  split
  · exact refuseCommit working full since
  · next es f take => exact .next (.extentsTaken working full take) presentWrite

theorem lineCoded {w : EncoderWork} (working : s.encoder = some w) (coding : w.phase = .lineCoding)
    (since : s.EncoderSince v) : Changes v none s none (s.lineCoded w) :=
  .next (.coded working coding) ((send .compose rfl).trans
    (judgeDeferred (fun w' hw' => by cases hw'; rfl) fun w' hw' => by cases hw'; exact since w working))

theorem composeBlock {w : EncoderWork} (working : s.encoder = some w) (b : LineBlock) :
    Changes v o s o (s.composeBlock w b) := by
  unfold State.composeBlock
  split
  · exact markStray _
  · exact markStray _
  · dsimp only
    split
    · exact send _ rfl
    · next fits =>
      by_cases good : lineBlockGood b = true
      · by_cases awaited : w.Awaits (s.page w.handle).shape b
        · obtain ⟨ready, -, depth, -, -, count⟩ := awaited
          have whole := ((lineBlockGood_iff b).mp good).1
          rw [if_neg (by simp [depth])] at whole
          exact .one (.line working ready (whole.trans count))
        · rw [lineBlockRefusal_order good awaited] at fits
          cases fits
      · rw [lineBlockRefusal_check (by simpa using good)] at fits
        cases fits

/-! ## A press delivery -/

theorem sendPress : Changes v o s o s.sendPress := by
  unfold State.sendPress
  split
  · exact .done
  · next d hd =>
    split
    · exact .done
    · next free =>
      split
      · exact .done
      · next b hb =>
        split
        · exact .done
        · next f hf =>
          have other : f.isReply = false := by
            unfold State.pressBlock at hf
            split at hf
            · split at hf
              · obtain ⟨xs, -, rfl⟩ := Option.map_eq_some_iff.mp hf
                rfl
              · cases hf
            · cases hf
              rfl
          refine (send .press other).append (.delivery (d := d) _ (by simpa using hd) rfl (.inr (.inr ?_)))
          simpa using (not_or.mp free).2

theorem endPress (e : Ending) (resume : Nat) : Changes v o s o (s.endPress e resume) := .one (.endsPress e resume)

theorem handOverDamage : Changes v o s o s.handOverDamage := by
  unfold State.handOverDamage
  split
  · split
    · split
      · exact .done
      · exact endPress ..
    · exact .done
  · exact .done

theorem withdrawIfEmpty (c : PressChannel) (k : BufferId) : Changes v o s o (s.withdrawIfEmpty c k) := by
  unfold State.withdrawIfEmpty
  split
  · exact .one (.sched (.dropsRead _))
  · exact .done

end Changes

/-! ### Which plane-bands a changed channel decodes -/

@[simp] theorem PressChannel.buffer_mapBuffers (f : BandBuffer → BandBuffer) (c : PressChannel) (k : BufferId) :
    (c.mapBuffers f).buffer k = f (c.buffer k) := by cases k <;> rfl

theorem PressChannel.buffer_setBuffer (c : PressChannel) (j k : BufferId) (x : BandBuffer) :
    (c.setBuffer j x).buffer k = if k = j then x else c.buffer k := by cases j <;> cases k <;> rfl

@[simp] theorem PressChannel.setBuffer_shape (c : PressChannel) (k : BufferId) (x : BandBuffer) :
    (c.setBuffer k x).shape = c.shape := by cases k <;> rfl
@[simp] theorem PressChannel.setBuffer_handle (c : PressChannel) (k : BufferId) (x : BandBuffer) :
    (c.setBuffer k x).handle = c.handle := by cases k <;> rfl

@[simp] theorem PressChannel.assign_shape (k : BufferId) (c : PressChannel) : (c.assign k).shape = c.shape := by
  unfold PressChannel.assign; split <;> simp
@[simp] theorem PressChannel.assign_handle (k : BufferId) (c : PressChannel) : (c.assign k).handle = c.handle := by
  unfold PressChannel.assign; split <;> simp

/-- A buffer changed to another that holds no new plane-band keeps the channel placed. -/
theorem PressChannel.Placed.mapBuffers {c : PressChannel} {n : Nat} (h : c.Placed n) {f : BandBuffer → BandBuffer}
    (old : ∀ x band plane work planes, f x = .decoding band plane work planes → x = f x) :
    (c.mapBuffers f).Placed n := by
  intro k band plane work planes hk
  rw [PressChannel.buffer_mapBuffers] at hk
  exact h k band plane work planes ((old _ _ _ _ _ hk).trans hk)

/-- A plane-band that begins decoding has read no entry. -/
theorem Decoding.entrySound_initial (raw stream : Nat) : Decoding.initial.EntrySound raw stream :=
  fun _ h => by cases h

theorem PressChannel.Placed.setBuffer {c : PressChannel} {n : Nat} (h : c.Placed n) {j : BufferId} {x : BandBuffer}
    (new : ∀ band plane work planes, x = .decoding band plane work planes →
      c.shape.Has band plane ∧ work.EntrySound (c.shape.raw band) n) : (c.setBuffer j x).Placed n := by
  intro k band plane work planes hk
  rw [PressChannel.setBuffer_shape]
  rw [PressChannel.buffer_setBuffer] at hk
  split at hk
  · exact new _ _ _ _ hk
  · exact h _ _ _ _ _ hk

theorem PressChannel.Placed.assign {c : PressChannel} {n : Nat} (h : c.Placed n) (planes : 1 ≤ c.shape.planes)
    (k : BufferId) : (c.assign k).Placed n := by
  unfold PressChannel.assign
  split
  · next room =>
    exact h.setBuffer (j := k) fun band plane work ps e => by
      cases e
      exact ⟨⟨room.2.1, planes⟩, Decoding.entrySound_initial _ _⟩
  · exact h

theorem PressChannel.Placed.assignAll {c : PressChannel} {n : Nat} (h : c.Placed n) (planes : 1 ≤ c.shape.planes) :
    c.assignAll.Placed n :=
  (h.assign planes .a).assign (by simpa using planes) .b

theorem BandBuffer.promote_decoding (d : Delivery) (x : BandBuffer) (band plane : Nat) (work : Decoding)
    (planes : List (List Byte)) (h : x.promote d = .decoding band plane work planes) : x = x.promote d := by
  cases x with
  | ready b ps =>
    rw [BandBuffer.promote] at h
    split at h <;> simp at h
  | _ => rfl

theorem BandBuffer.endSending_decoding (x : BandBuffer) (band plane : Nat) (work : Decoding)
    (planes : List (List Byte)) (h : x.endSending = .decoding band plane work planes) : x = x.endSending := by
  cases x with
  | sending b ps => cases h
  | _ => rfl

theorem BandBuffer.discardFrom_decoding (stop : Nat) (x : BandBuffer) (band plane : Nat) (work : Decoding)
    (planes : List (List Byte)) (h : x.discardFrom stop = .decoding band plane work planes) :
    x = x.discardFrom stop := by
  unfold BandBuffer.discardFrom at h ⊢
  split at h
  · cases h
  · next e => rw [if_neg e]

theorem PressChannel.Placed.completeBand {c : PressChannel} {n : Nat} (h : c.Placed n) (planes : 1 ≤ c.shape.planes)
    (d : Delivery) : (c.completeBand d).Placed n :=
  PressChannel.Placed.assignAll
    ((h.mapBuffers BandBuffer.endSending_decoding).mapBuffers (BandBuffer.promote_decoding d)) planes

theorem Decoding.closeRow_entry (p : DecodeShape) (d : Decoding) : (d.closeRow p).entry = d.entry := by
  unfold Decoding.closeRow; split <;> rfl

theorem decodeRegular_entry {p : DecodeShape} {d d' : Decoding} (h : decodeRegular p d = some d') :
    d'.entry = d.entry := by
  obtain ⟨x, -, rfl⟩ := Option.map_eq_some_iff.mp h
  dsimp only
  split
  · rfl
  · rw [Decoding.closeRow_entry]

theorem decodeRun_entry {p : DecodeShape} {d d' : Decoding} (h : decodeRun p d = some d') :
    d'.entry = d.entry := by
  obtain ⟨x, -, rfl⟩ := Option.map_eq_some_iff.mp h
  dsimp only
  split
  · rfl
  · rw [Decoding.closeRow_entry]

theorem decodeOn_entry (p : DecodeShape) (n : Nat) (d : Decoding) : (decodeOn p n d).entry = d.entry := by
  induction n generalizing d with
  | zero => rfl
  | succ n ih =>
    unfold decodeOn
    split
    · rfl
    · split
      · rfl
      · next d' h =>
        rw [ih]
        split at h
        · exact decodeRegular_entry h
        · exact decodeRun_entry h

/-- Feeding a unit leaves the index entry as it was read. -/
theorem Decoding.feed_entry (p : DecodeShape) (e : IndexEntry) (bs : List Byte) (d : Decoding) :
    (d.feed p e bs).entry = d.entry := by
  unfold Decoding.feed
  dsimp only
  split
  · rfl
  · split
    · exact decodeOn_entry ..
    · exact decodeOn_entry ..

/-- The model's test of an index entry is that of Table 3-10. -/
theorem entryGood_iff (p : Shape) (band plane n : Nat) (e : IndexEntry) :
    entryGood (p.decode band plane) n e = true ↔ soundEntry e (p.raw band) n := by
  simp only [entryGood, soundEntry, Shape.decode, Shape.raw, Bool.and_eq_true, Bool.or_eq_true,
    decide_eq_true_eq, beq_iff_eq]
  cases e.mode <;> grind

/-- A read makes no entry that fails the first findings of Table 3-10 (R67, R92). -/
theorem Decoding.EntrySound.take {p : Shape} {band plane n : Nat} {d d' : Decoding} {x : ReadData}
    (h : d.EntrySound (p.raw band) n) (taken : d.take (p.decode band plane) n x = some d') :
    d'.EntrySound (p.raw band) n := by
  intro e he
  cases x with
  | bytes bs =>
    cases hd : d.entry with
    | none =>
      simp only [Decoding.take, hd, Option.some.injEq] at taken
      exact h e (taken ▸ he)
    | some e' =>
      simp only [Decoding.take, hd, Option.some.injEq] at taken
      rw [← taken, Decoding.feed_entry] at he
      exact h e he
  | entry x =>
    simp only [Decoding.take] at taken
    split at taken
    · next good =>
      cases taken
      cases he
      exact (entryGood_iff ..).mp good
    · cases taken

end Sys2Proof.Machine

/-! # Every command as a chain of changes -/

namespace Sys2Proof.Machine

/-! ## View order (R104) -/

theorem ViewRecord.nextPlaneBand_within {v : ViewRecord} {p : Shape} {band plane : Nat} {x : Nat × Nat}
    (within : v.Within p) (here : band < p.bands) (next : v.nextPlaneBand band plane = some x) :
    p.Has x.1 x.2 := by
  obtain ⟨range, mask, some⟩ := within
  unfold ViewRecord.nextPlaneBand at next
  split at next
  · next j hj =>
    cases next
    exact ⟨here, mask j (List.mem_of_find?_eq_some hj)⟩
  · split at next
    · cases next
      refine ⟨by dsimp only; omega, mask _ ?_⟩
      unfold lowestPlane
      cases hm : v.planeMask with
      | nil => exact absurd hm some
      | cons j l => exact List.mem_cons_self
    · cases next

theorem ProofChannel.advance_handle (v : ViewRecord) (c : ProofChannel) : (c.advance v).handle = c.handle := by
  unfold ProofChannel.advance; split <;> rfl

theorem ProofChannel.advance_shape (v : ViewRecord) (c : ProofChannel) : (c.advance v).shape = c.shape := by
  unfold ProofChannel.advance; split <;> rfl

theorem ProofChannel.Placed.advance {v : ViewRecord} {c : ProofChannel} {n : Nat} (h : c.Placed n)
    (within : v.Within c.shape) : (c.advance v).Placed n := by
  unfold ProofChannel.advance
  split
  · next x hx =>
    refine ⟨ViewRecord.nextPlaneBand_within within h.1.1 hx, fun work e => ?_⟩
    cases e
    exact Decoding.entrySound_initial _ _
  · exact ⟨h.1, fun work e => by cases e⟩

namespace Changes

variable {v : Vector PageRecord 256} {o : Option Port} {s : State}

/-! ## A press delivery -/

theorem promote : Changes v o s o s.promote := by
  unfold State.promote
  split
  · next d c hd hc => exact .one (.channel _ hc rfl rfl fun _ h => h.mapBuffers (BandBuffer.promote_decoding d))
  · exact .done

/-- The channel goes on with other buffers, and the reads of those that are EMPTY are withdrawn. -/
theorem dropBuffers {c c' : PressChannel} (active : s.pressChannel = some c) (handle : c'.handle = c.handle)
    (shape : c'.shape = c.shape)
    (placed : 1 ≤ c.shape.planes → c.Placed (s.page c.handle).streamLength →
      c'.Placed (s.page c.handle).streamLength) :
    Changes v o s o { ((s.withdrawIfEmpty c' .a).withdrawIfEmpty c' .b) with pressChannel := some c' } := by
  have same : ∀ (u : State) (j : BufferId), (u.withdrawIfEmpty c' j).pressChannel = u.pressChannel ∧
      (u.withdrawIfEmpty c' j).pages = u.pages := fun u j => by
    unfold State.withdrawIfEmpty
    split <;> exact ⟨rfl, rfl⟩
  have page := State.page_congr (((same (s.withdrawIfEmpty c' .a) .b).2).trans (same s .a).2) c.handle
  have channel := ((same (s.withdrawIfEmpty c' .a) .b).1).trans ((same s .a).1.trans active)
  exact (withdrawIfEmpty c' .a).trans ((withdrawIfEmpty c' .b).append (.channel c' channel handle shape (by rwa [page])))

/-- Every channel changed alike. -/
theorem mapChannel {f : PressChannel → PressChannel} (handle : ∀ c, (f c).handle = c.handle)
    (shape : ∀ c, (f c).shape = c.shape) (placed : ∀ c n, 1 ≤ c.shape.planes → c.Placed n → (f c).Placed n) :
    Changes v o s o { s with pressChannel := s.pressChannel.map f } := by
  cases hc : s.pressChannel with
  | none =>
    have : { s with pressChannel := none } = s := by rw [← hc]
    exact this ▸ .done
  | some c => exact .one (.channel (f c) hc (handle c) (shape c) (placed c _))

/-- Damage found by the press channel at a band it decodes (R95, R101). -/
theorem pressDamage {c : PressChannel} {k : BufferId} {band plane : Nat} {work : Decoding}
    {planes : List (List Byte)} (active : s.pressChannel = some c)
    (decoding : c.buffer k = .decoding band plane work planes) : Changes v o s o (s.pressDamage c band) := by
  unfold State.pressDamage
  dsimp only
  exact .next (.pressDamages active decoding) ((dropBuffers (s := s.reportDamage c.handle band) (c' :=
    { c.mapBuffers (·.discardFrom (lowerOf band c.stopBand)) with stopBand := some (lowerOf band c.stopBand) })
    active rfl rfl fun _ h => PressChannel.Placed.mapBuffers h (BandBuffer.discardFrom_decoding _)).trans handOverDamage)

theorem pressDecoded (k : BufferId) : Changes v o s o (s.pressDecoded k) := by
  unfold State.pressDecoded
  split
  · exact .done
  · next c hc =>
    split
    · next band plane work planes hk =>
      split
      · exact .done
      · next xs hv =>
        refine .next (.channel _ hc (by simp) (by simp) fun _ h => h.setBuffer fun b pl w ps e => ?_)
          (promote.trans (sendPress.trans presentPress))
        unfold BandBuffer.afterPlane at e
        split at e
        · next more =>
          cases e
          exact ⟨⟨(h _ _ _ _ _ hk).1.1, more⟩, Decoding.entrySound_initial _ _⟩
        · cases e
      · exact (pressDamage hc hk).trans presentPress
    · exact .done

theorem pressRead (k : BufferId) (data : ReadData) : Changes v o s o (s.pressRead k data) := by
  unfold State.pressRead
  split
  · exact .done
  · next c hc =>
    split
    · next band plane work planes hk =>
      split
      · next work' ht =>
        refine .next (.channel _ hc (by simp) (by simp) fun _ h => h.setBuffer fun b pl w ps e => ?_) presentPress
        cases e
        exact ⟨(h _ _ _ _ _ hk).1, (h _ _ _ _ _ hk).2.take ht⟩
      · exact (pressDamage hc hk).trans presentPress
    · exact .done

theorem delivery_completeBand {d : Delivery} (running : s.delivery = some d) :
    Change v o s o { s with delivery := some d.completeBand } := by
  refine .delivery _ running ?_ (.inr (.inl ?_))
  · unfold Delivery.completeBand; split <;> rfl
  · unfold Delivery.completeBand; split <;> rfl

/-- A press delivery's band completes at the port and at the channel (R100, R122). -/
theorem completeBand {d : Delivery} (running : s.delivery = some d) : Changes v o s o (s.completeBand d) := by
  unfold State.completeBand
  exact .next (delivery_completeBand running) ((mapChannel (by simp [PressChannel.completeBand, PressChannel.assignAll, PressChannel.mapBuffers])
    (by simp [PressChannel.completeBand, PressChannel.assignAll, PressChannel.mapBuffers])
    fun c n planes h => h.completeBand planes _).trans handOverDamage)

theorem acceptPress {d : Delivery} (running : s.delivery = some d) (b : BlockRef) :
    Changes v o s o (s.acceptPress d b) := by
  have handle : (Delivery.endLead { d with outstanding := none } b).handle = d.handle := by
    unfold Delivery.endLead; split <;> rfl
  have outstanding : (Delivery.endLead { d with outstanding := none } b).outstanding = none := by
    unfold Delivery.endLead; split <;> rfl
  unfold State.acceptPress
  dsimp only
  generalize Delivery.endLead { d with outstanding := none } b = d' at handle outstanding ⊢
  have record : Change v o s o { s with delivery := some d' } := .delivery _ running handle (.inl outstanding)
  split
  · split
    · exact .next record (.next (delivery_completeBand rfl) (endPress ..))
    · exact .next record (endPress ..)
  · split
    · exact .next record ((completeBand rfl).trans (sendPress.trans presentPress))
    · exact .next record (promote.trans sendPress)

theorem pressToken (code : Byte) : Changes v o s o (s.pressToken code) := by
  unfold State.pressToken
  split
  · exact .next .pressOnTime sendPress
  · split
    · exact markStray _
    · next d hd =>
      split
      · exact markStray _
      · next b hb =>
        split
        · exact markStray _
        · exact acceptPress hd b
        · exact .next (.delivery { d with outstanding := none } hd rfl (.inl rfl)) (endPress ..)

theorem beginDelivery {h : Handle} {startBand lead trail : Nat} (head : s.queue.head? = some h)
    (ok : startRefusal startBand lead trail (s.page h) = none) (idle : s.press.state = .idle) (window : Nat) :
    Changes v (some .press) s none (s.beginDelivery h startBand lead trail window) :=
  .next (.begins h startBand lead trail window head ok idle) ((reply ..).trans (sendPress.trans presentPress))

/-! ## A view -/

theorem sendView : Changes v o s o s.sendView := by
  unfold State.sendView
  split
  · exact .done
  · next x hv =>
    split
    · exact .done
    · next free =>
      split
      · exact .done
      · next r hr =>
        split
        · exact .done
        · next f hf =>
          have other : f.isReply = false := by
            unfold State.viewBlock at hf
            split at hf
            · cases hf
            · split at hf
              · split at hf
                · cases hf
                  rfl
                · cases hf
              · cases hf
          refine (send .proof other).append (.view (s := s.send .proof f) (x := x) _ (by simpa using hv) rfl rfl rfl (.inr (.inr ?_)))
          simpa using (not_or.mp free).2

theorem endView (e : Ending) (resume : Nat) : Changes v o s o (s.endView e resume) := .one (.endsView e resume)

theorem proofDamage {c : ProofChannel} (active : s.proofChannel = some c) : Changes v o s o (s.proofDamage c) :=
  .next (.proofDamages active) (endView ..)

theorem proofDecoded : Changes v o s o s.proofDecoded := by
  unfold State.proofDecoded
  split
  · exact .done
  · next c hc =>
    split
    · next work hw =>
      split
      · exact .done
      · next xs hx =>
        exact .next (.proofChannel { c with buffer := .sending xs } hc rfl rfl
          fun _ _ _ h => ⟨h.1, fun _ e => by cases e⟩) sendView
      · exact proofDamage hc
    · exact .done

theorem proofRead (data : ReadData) : Changes v o s o (s.proofRead data) := by
  unfold State.proofRead
  split
  · exact .done
  · next c hc =>
    split
    · next work hw =>
      split
      · next work' ht =>
        refine .next (.proofChannel { c with buffer := .decoding work' } hc rfl rfl
          fun _ _ _ h => ⟨h.1, fun _ e => ?_⟩) presentProof
        cases e
        exact (h.2 _ hw).take ht
      · exact proofDamage hc
    · exact .done

/-- The proof channel goes on to the plane-band after its own. -/
theorem advanceChannel {x : ViewRecord} (running : s.view = some x) :
    Changes v o s o { s with proofChannel := s.proofChannel.map (ProofChannel.advance x) } := by
  cases hc : s.proofChannel with
  | none =>
    have : { s with proofChannel := none } = s := by rw [← hc]
    exact this ▸ .done
  | some c =>
    refine .one (.proofChannel (c.advance x) hc (c.advance_handle x) (c.advance_shape x) fun x' hx' within h => ?_)
    cases running.symm.trans hx'
    exact h.advance within

theorem acceptView {x : ViewRecord} (running : s.view = some x) (r : ViewRef) :
    Changes v o s o (s.acceptView x r) := by
  unfold State.acceptView
  dsimp only
  generalize (if x.endsBand r = true then x.firstNotSent + 1 else x.firstNotSent) = firstNotSent
  have channel : Changes v o s o { s with
      proofChannel := if x.endsPlaneBand r then s.proofChannel.map (ProofChannel.advance x) else s.proofChannel } := by
    split
    · exact advanceChannel running
    · exact .done
  have record := channel.append (.view (x := x) { x with outstanding := none, firstNotSent := firstNotSent } running
    rfl rfl rfl (.inl rfl))
  split
  · exact record.trans (endView ..)
  · exact record.trans (sendView.trans presentProof)

theorem proofToken (code : Byte) : Changes v o s o (s.proofToken code) := by
  unfold State.proofToken
  split
  · exact .next .proofOnTime sendView
  · split
    · exact markStray _
    · next x hv =>
      split
      · exact markStray _
      · next r hr =>
        split
        · exact markStray _
        · exact acceptView hv r
        · exact .next (.view { x with outstanding := none } hv rfl rfl rfl (.inl rfl)) (endView ..)

theorem beginView {q : ViewParams} (ok : viewRefusal q (s.page q.handle) = none) (idle : s.proof.state = .idle) :
    Changes v (some .proof) s none (s.beginView (ViewRecord.begin q (s.page q.handle))) :=
  .next (.views q ok idle) ((reply ..).trans (sendView.trans presentProof))

end Changes
end Sys2Proof.Machine

namespace Sys2Proof.Machine

/-! ## Commands of the directory, the queue and the store -/

namespace Changes

variable {v : Vector PageRecord 256} {o : Option Port} {s : State}

theorem releaseOne (n : ReleaseCounts) (h : Handle) : Changes v o s o (State.releaseOne (s, n) h).1 := by
  rw [State.releaseOne_eq]
  dsimp only
  split
  · next freed => exact .one (.frees h freed)
  · next pending => exact .one (.marksPending h pending)
  · exact .done

theorem foldl_releaseOne (hs : List Handle) (n : ReleaseCounts) :
    Changes v o s o (hs.foldl State.releaseOne (s, n)).1 := by
  induction hs generalizing s n with
  | nil => exact .done
  | cons h hs ih => exact (releaseOne n h).trans (ih _)

theorem releasePages (p : Port) (first last : Nat) : Changes v (some p) s none (s.releasePages p first last) := by
  by_cases h : last < first
  · rw [State.releasePages, if_pos h]
    exact reply ..
  · rw [State.releasePages_eq _ _ (by omega)]
    exact (foldl_releaseOne ..).trans (reply ..)

theorem queryPage (p : Port) (h : Handle) (e : Nat) : Changes v (some p) s none (s.queryPage p h e) := by
  unfold State.queryPage
  split_ifs <;> exact reply ..

theorem listPages (p : Port) (first count : Nat) : Changes v (some p) s none (s.listPages p first count) := by
  unfold State.listPages
  split_ifs <;> exact reply ..

theorem holdPage (p : Port) (h : Handle) (reason : Byte) : Changes v (some p) s none (s.holdPage p h reason) := by
  unfold State.holdPage
  split
  · exact reply ..
  · next ok => exact .next (.holds h reason ok) (reply ..)

theorem enqueuePage (p : Port) (h : Handle) (n : Nat) : Changes v (some p) s none (s.enqueuePage p h n) := by
  unfold State.enqueuePage
  split
  · exact reply ..
  · next ok => exact .next (.enqueues h n ok) (reply ..)

theorem rebindPages (p : Port) (old new : Handle) : Changes v (some p) s none (s.rebindPages p old new) := by
  unfold State.rebindPages
  split
  · exact reply ..
  · next ok => exact .next (.rebinds old new ok) (reply ..)

theorem skipHead (idle : s.press.state = .idle) (p : Port) : Changes v (some p) s none (s.skipHead p) := by
  unfold State.skipHead
  split
  · exact reply ..
  · exact .next (.skips idle) (reply ..)

theorem startHead (idle : s.press.state = .idle) (startBand lead trail window : Nat) :
    Changes v (some .press) s none (s.startHead .press startBand lead trail window) := by
  unfold State.startHead
  split
  · exact reply ..
  · next h t hq =>
    split
    · exact reply ..
    · next ok => exact beginDelivery (by rw [hq]; rfl) ok idle window

theorem openView (idle : s.proof.state = .idle) (q : ViewParams) :
    Changes v (some .proof) s none (s.openView .proof q) := by
  unfold State.openView
  split
  · exact reply ..
  · next ok => exact beginView ok idle

theorem stopDelivery (p : Port) : Changes v (some p) s none (s.stopDelivery p) := by
  unfold State.stopDelivery
  dsimp only
  refine Changes.trans ?_ (reply ..)
  split
  · split
    · exact endPress ..
    · exact .done
  · split
    · exact endView ..
    · exact .done
  · exact .done

theorem continuePage (idle : s.compose.state = .idle) (h : Handle) (p : Port) :
    Changes v (some p) s none (s.continuePage p h) := by
  unfold State.continuePage
  split
  · exact reply ..
  · next ok => exact .next (.resumes h ok idle) (reply ..)

theorem sealPage (p : Port) (compose : p = .compose) (since : s.EncoderSince v) : Changes v (some p) s none (s.sealPage p) := by
  subst compose
  cases hw : s.encoder with
  | none => rw [State.sealPage, hw]; exact reply ..
  | some w =>
    cases hp : w.phase.isCommitting with
    | false => rw [State.sealPage_now hw hp]; exact sealNow hw hp since
    | true =>
      obtain ⟨c, hc⟩ : ∃ c, w.phase = .committing c := by
        cases h : w.phase <;> simp_all [EncoderPhase.isCommitting]
      rw [State.sealPage_committing hw hc]
      exact .one (.defers _ hw)

theorem abandonPage (p : Port) (compose : p = .compose) : Changes v (some p) s none (s.abandonPage p) := by
  subst compose
  cases hw : s.encoder with
  | none =>
    rw [State.abandonPage, hw]
    exact .next (.turns .compose .idle (by decide) (.inr hw) (.inl rfl)) (reply ..)
  | some w =>
    by_cases hp : w.phase = .ready ∨ w.phase = .complete
    · rw [State.abandonPage_now hw hp]
      exact abandonNow hw (by rcases hp with e | e <;> rw [e] <;> rfl)
    · rw [State.abandonPage_deferred hw hp]
      exact .one (.defers _ hw)

theorem blockToken (p : Port) (code : Byte) : Changes v none s none (s.blockToken p code) := by
  cases p with
  | compose => exact markStray _
  | press => exact pressToken code
  | proof => exact proofToken code

theorem lineBlock (p : Port) (b : LineBlock) : Changes v none s none (s.lineBlock p b) := by
  unfold State.lineBlock
  split
  · split
    · next w hw => exact composeBlock hw b
    · exact strayBlock p
  · exact strayBlock p

/-! ## Transfers -/

theorem freed (change : StoreChange) : Changes v o s o (s.freed change) :=
  .next (.stores _ fun h => Memory.wf_change h change) (.one (.sched .completes))

theorem completeWrite (since : s.EncoderSince v) (w : WriteReq) (live : Bool) (u : UnitAddr) :
    Changes v none s none (s.completeWrite w live u) := by
  have written : Change v none s none { s with store := s.store.write u w.offset w.data } :=
    .stores _ fun h => Memory.wf_write h u w.offset w.data
  unfold State.completeWrite
  dsimp only
  split
  · exact .next written (writeDone since)
  · exact .next written presentWrite

theorem completePressRead (r : ReadReq) (live : Bool) (u : UnitAddr) :
    Changes v o s o (s.completePressRead r live u) := by
  unfold State.completePressRead
  split
  · exact pressRead ..
  · exact presentPress

theorem completeProofRead (r : ReadReq) (live : Bool) (u : UnitAddr) :
    Changes v o s o (s.completeProofRead r live u) := by
  unfold State.completeProofRead
  split
  · exact proofRead _
  · exact presentProof

/-- A transfer's completion, where its unit is one of the store. -/
theorem finishTransfer {addr : Option UnitAddr} {k : UnitAddr → State} {t : State}
    (completes : ∀ u, Changes v none s none (k u)) (h : finishTransfer addr k = .next t) : Changes v none s none t := by
  unfold Machine.finishTransfer at h
  split at h
  · next u hu =>
    cases h
    exact (completes u).trans settle
  · cases h

theorem transferCompletion {change : StoreChange} {t : State} (h : execTransferCompletion change s = .next t)
    (since : s.EncoderSince v) : Changes v none s none t := by
  unfold execTransferCompletion at h
  split at h
  · exact finishTransfer (fun u => (freed change).trans (completeWrite (by exact since) _ _ u)) h
  · exact finishTransfer (fun u => (freed change).trans (completePressRead _ _ u)) h
  · exact finishTransfer (fun u => (freed change).trans (completeProofRead _ _ u)) h
  · cases h; exact .done
  · cases h; exact .done

/-! ## Links and device reset -/

theorem linkLoss (p : Port) (since : s.EncoderSince v) :
    Changes v none s none (((s.loseWork p).updatePort p (·.lost)).judgeRest) := by
  refine Changes.trans ?_ judgeRest
  cases p with
  | compose => exact   .next (.tears since) (.one (.loses .compose s.tear_encoder))
  | press => exact .next .dropsPress (.one (.loses .press rfl))
  | proof =>
    refine .next .dropsView (.one (.loses .proof ?_))
    show s.dropView.view = none
    unfold State.dropView
    split <;> first | assumption | rfl

/-- A port whose work is given up is lost and its flags are cleared. -/
theorem resetPort (p : Port) (idle : s.idleAt p) : Changes v none s none (s.updatePort p (·.deviceReset)) := by
  have : s.updatePort p (·.deviceReset) =
      (s.updatePort p (·.lost)).setPort p { (s.updatePort p (·.lost)).port p with frameCheck := false, stray := false } := by
    cases p <;> rfl
  rw [this]
  exact .next (.loses p idle) (.one (.port p (.flags false false)))

/-- The three ports of a part whose work is given up are reset. -/
theorem resetPorts (compose : s.encoder = none) (press : s.delivery = none) (proof : s.view = none) :
    Changes v none s none { s with
      compose := s.compose.deviceReset, press := s.press.deviceReset, proof := s.proof.deviceReset } :=
  (resetPort .compose compose).trans
    ((resetPort (s := s.updatePort .compose (·.deviceReset)) .press press).trans
      (resetPort (s := (s.updatePort .compose (·.deviceReset)).updatePort .press (·.deviceReset)) .proof proof))

theorem deviceReset (since : s.EncoderSince v) : Changes v none s none s.allGivenUp.wakeStore := by
  refine Changes.trans ?_ wakeStore
  have given : Changes v none s none (s.tear.updateSched (·.withdrawWrite)).dropDeliveries.resetDirectory :=
    .next (.tears since) (.next (.sched .dropsWrite) (.next .dropsPress (.one (.clears rfl rfl))))
  have same := s.tear.givenUp_eq
  unfold State.allGivenUp
  generalize (s.tear.updateSched (·.withdrawWrite)).dropDeliveries.resetDirectory = u at given same ⊢
  have ports : s.compose = u.compose ∧ s.press = u.press ∧ s.proof = u.proof := by
    rw [same]
    exact ⟨s.tear_compose.symm, s.tear_press.symm, s.tear_proof.symm⟩
  rw [ports.1, ports.2.1, ports.2.2]
  exact given.trans (resetPorts (by rw [same]; exact s.tear_encoder) (by rw [same]) (by rw [same]))

end Changes

/-- A command taken on a port is allowed there, in the port's state. -/
theorem State.takes.allowed {s : State} {p : Port} {c : Cmd} (h : s.takes p c) :
    p ∈ c.ports ∧ (s.port p).state ∈ c.states := by
  have := h.2.2
  simpa [Cmd.allowed] using this

theorem State.EncoderSince.taken {s : State} {v : Vector PageRecord 256} (h : s.EncoderSince v) (p : Port) (c : Cmd) :
    (s.taken p c).EncoderSince v := by
  intro w hw
  rw [State.page_taken]
  exact h w (by simpa using hw)

theorem State.taken_state (s : State) (p : Port) (c : Cmd) : ((s.taken p c).port p).state = (s.port p).state := by
  simp [State.taken]

namespace Changes

variable {v : Vector PageRecord 256} {s : State}

/-! ## Commands whose port's state matters -/

theorem judgeContinue (p : Port) (h : Handle) : Changes v none s none (s.judge p .openPage (·.continuePage p h)) := by
  refine judge fun ht => ?_
  obtain ⟨hp, hst⟩ := ht.allowed
  obtain rfl : p = .compose := by simpa [Cmd.ports] using hp
  exact continuePage ((s.taken_state .compose _).trans (by simpa [Cmd.states] using hst)) h _

theorem judgeStart (p : Port) (b l tr w : Nat) :
    Changes v none s none (s.judge p .start (·.startHead p b l tr w)) := by
  refine judge fun ht => ?_
  obtain ⟨hp, hst⟩ := ht.allowed
  obtain rfl : p = .press := by simpa [Cmd.ports] using hp
  exact startHead ((s.taken_state .press _).trans (by simpa [Cmd.states] using hst)) ..

theorem judgeSkip (p : Port) : Changes v none s none (s.judge p .skip (·.skipHead p)) := by
  refine judge fun ht => ?_
  obtain ⟨hp, hst⟩ := ht.allowed
  obtain rfl : p = .press := by simpa [Cmd.ports] using hp
  exact skipHead ((s.taken_state .press _).trans (by simpa [Cmd.states] using hst)) _

theorem judgeView (p : Port) (q : ViewParams) : Changes v none s none (s.judge p .view (·.openView p q)) := by
  refine judge fun ht => ?_
  obtain ⟨hp, hst⟩ := ht.allowed
  obtain rfl : p = .proof := by simpa [Cmd.ports] using hp
  exact openView ((s.taken_state .proof _).trans (by simpa [Cmd.states] using hst)) q

theorem judgeRestPort (p : Port) : Changes v none s none (s.judge p .rest (·.restPort p)) := by
  refine judge fun ht => ?_
  have idle : (s.port p).state = .idle := by simpa [Cmd.states] using ht.allowed.2
  refine .next (.turns p .resting (by decide) (.inl ?_) (.inr rfl)) ((reply ..).trans judgeRest)
  simp [State.taken_state, idle]

theorem judgeWake (p : Port) : Changes v none s none (s.judge p .wake (·.wakePort p)) := by
  refine judge fun ht => ?_
  have resting : (s.port p).state = .resting := by simpa [Cmd.states] using ht.allowed.2
  refine .next (.turns p .idle (by decide) (.inl ?_) (.inl rfl)) ((reply ..).trans wakeStore)
  simp [State.taken_state, resting]

/-- What reaches a DOWN port changes nothing. -/
theorem unlessDown {p : Port} {t : State} (rule : (s.port p).state ≠ .down → Changes v none s none t) :
    Changes v none s none (if (s.port p).state = .down then s else t) := by
  split
  · exact .done
  · next up => exact rule up

theorem unknownCommand {p : Port} (up : (s.port p).state ≠ .down) (code : Byte) :
    Changes v none s none (if (s.port p).outstanding.isSome then s.markStray p
      else (s.updatePort p (·.take code)).reply p code .illegal []) := by
  split
  · exact markStray p
  · next idle => exact .next (.takes p code up (by simpa using idle)) (reply ..)

theorem linkUp {p : Port} : Changes v none s none
    (if (s.port p).state = .down then (s.setPortState p .idle).wakeStore else s) := by
  split
  · next down => exact .next (.turns p .idle (by decide) (.inl (by simp [down])) (.inl rfl)) wakeStore
  · exact .done

/-! ## Events of the encoder, the store and the deliveries -/

theorem lineCodingEnd {t : State} (h : execLineCodingEnd s = .next t) (since : s.EncoderSince v) : Changes v none s none t := by
  obtain rfl := Host.Outcome.next.inj h
  split
  · next w hw =>
    split
    · next coding => exact lineCoded hw coding since
    · exact .done
  · exact .done

theorem extentTake {t : State} (h : execExtentTake s = .next t) (since : s.EncoderSince v) : Changes v none s none t := by
  obtain rfl := Host.Outcome.next.inj h
  split
  · next w hw =>
    split
    · next full => exact takeForCommit hw full since
    · exact .done
  · exact .done

theorem refreshCompletion {t : State} (h : execRefreshCompletion s = .next t) : Changes v none s none t := by
  obtain rfl := Host.Outcome.next.inj h
  split
  · exact .next (.sched .completes) settle
  · exact .done

theorem planeBandDecoded {slot : DecodeSlot} {t : State} (h : execPlaneBandDecoded slot s = .next t) :
    Changes v none s none t := by
  obtain rfl := Host.Outcome.next.inj h
  cases slot with
  | press k => exact pressDecoded k
  | proof => exact proofDecoded

theorem bandWindowExpiry {t : State} (h : execBandWindowExpiry s = .next t) : Changes v none s none t := by
  obtain rfl := Host.Outcome.next.inj h
  split
  · split
    · exact endPress ..
    · exact .done
  · exact .done

end Changes

/-! ## Every command -/

/-- What happens in a command's event before anything else: a reading is taken, or the debt rises. -/
def State.begun (s : State) : Instr → State
  | .thermalReading v => s.takeReading (readingOf v)
  | .refreshTimerExpiry => if s.sched.timerRunning then s.updateSched (·.expire s.thermal) else s
  | _ => s

/-- An OPEN_PAGE that opens a FREE record. -/
structure State.Opens (s : State) (q : OpenParams) (h : Handle) (t : State) : Prop where
  takes : s.takes .compose .openPage
  good : q.InRange
  free : (s.page h).state = .free
  result : t = ((s.taken .compose .openPage).openAt h q).reply .compose Cmd.openPage.code .ok [h]

theorem State.chooseRecord_free {s : State} {h k : Handle} (chosen : s.chooseRecord h = .ok k) :
    (s.page k).state = .free := by
  unfold State.chooseRecord at chosen
  split at chosen
  · split at chosen
    · next k' hk =>
      cases chosen
      simpa using List.find?_some hk
    · cases chosen
  · split at chosen
    · next free =>
      cases chosen
      exact free
    · cases chosen

/-- OPEN_PAGE opens a page, or changes no more than its port. -/
theorem State.openPage_cases (s : State) (v : Vector PageRecord 256) (p : Port) (q : OpenParams) :
    (∃ h, s.Opens q h (s.judge p .openPage (·.openPage p q))) ∨
      Changes v none s none (s.judge p .openPage (·.openPage p q)) := by
  by_cases opens : s.takes p .openPage ∧ q.InRange ∧ ∃ h, s.chooseRecord q.handle = .ok h
  · obtain ⟨ht, good, h, chosen⟩ := opens
    have compose : p = .compose := by
      have := ht.2.2
      cases p <;> simp [Cmd.allowed, Cmd.ports] at this ⊢
    subst compose
    refine .inl ⟨h, ht, good, State.chooseRecord_free chosen, ?_⟩
    rw [State.judge_takes ht, State.openPage_ok good (by simpa using chosen)]
  · refine .inr (Changes.judge fun ht => ?_)
    by_cases good : q.InRange
    · cases chosen : s.chooseRecord q.handle with
      | ok h => exact absurd ⟨ht, good, h, chosen⟩ opens
      | error r =>
        rw [State.openPage_error good (by simpa using chosen)]
        exact Changes.reply ..
    · rw [State.openPage_refused good]
      exact Changes.reply ..

/-- A command that neither resets the part nor may open a page is a chain of changes. -/
theorem exec_changes {i : Instr} {s t : State} (h : exec i s = .next t) (stays : i ≠ .powerOnReset)
    (other : ∀ p q, i ≠ .openPage p q) : Changes s.pages none (s.begun i) none t := by
  have since : s.EncoderSince s.pages := fun _ _ => id
  cases i with
  | powerOnReset => exact absurd rfl stays
  | openPage p q => exact absurd rfl (other p q)
  | status p => cases h; exact .judge fun _ => (Changes.reply ..).append (.port p (.flags false false))
  | queryPage => cases h; exact .judge fun _ => .queryPage ..
  | listPages => cases h; exact .judge fun _ => .listPages ..
  | openPageContinue => cases h; exact .judgeContinue ..
  | sealPage p => cases h; exact .judge fun ht => .sealPage p (by simpa [Cmd.ports] using ht.allowed.1) (since.taken p _)
  | abandonPage p => cases h; exact .judge fun ht => .abandonPage p (by simpa [Cmd.ports] using ht.allowed.1)
  | enqueue => cases h; exact .judge fun _ => .enqueuePage ..
  | rebind => cases h; exact .judge fun _ => .rebindPages ..
  | release => cases h; exact .judge fun _ => .releasePages ..
  | peekQueue => cases h; exact .judge fun _ => .reply ..
  | start => cases h; exact .judgeStart ..
  | skip => cases h; exact .judgeSkip _
  | stop => cases h; exact .judge fun _ => .stopDelivery _
  | view => cases h; exact .judgeView ..
  | hold => cases h; exact .judge fun _ => .holdPage ..
  | lift p k => cases h; exact .judge fun _ => .next (.lifts k) (.reply ..)
  | rest => cases h; exact .judgeRestPort _
  | wake => cases h; exact .judgeWake _
  | unknownCommand => cases h; exact .unlessDown fun up => .unknownCommand up _
  | frameCheckFailure p => cases h; exact .unlessDown fun _ => .one (.port p (.flags true (s.port p).stray))
  | lineBlock => cases h; exact .unlessDown fun _ => .lineBlock ..
  | blockToken => cases h; exact .unlessDown fun _ => .blockToken ..
  | strayByte => cases h; exact .unlessDown fun _ => .markStray _
  | linkUp => cases h; exact .linkUp
  | linkLoss => cases h; exact .unlessDown fun _ => .linkLoss _ since
  | deviceReset => rw [exec_deviceReset] at h; cases h; exact .deviceReset since
  | lineCodingEnd => exact .lineCodingEnd h since
  | extentTake => exact .extentTake h since
  | transferCompletion => exact .transferCompletion h since
  | refreshCompletion => exact .refreshCompletion h
  | planeBandDecoded => exact .planeBandDecoded h
  | refreshTimerExpiry =>
    obtain rfl := Host.Outcome.next.inj h
    show Changes s.pages none (ite _ _ _) none (ite _ _ _)
    split
    · exact .settle
    · exact .done
  | bandWindowExpiry => exact .bandWindowExpiry h
  | thermalReading =>
    obtain rfl := Host.Outcome.next.inj h
    show Changes s.pages none _ none (ite _ _ _)
    split
    · exact .settle
    · exact .done
  | frameSent p => cases h; exact .one (.port p .sent)

/-- Everything a command can do: power-on reset, the opening of a page, or a chain of changes. -/
theorem exec_cases {i : Instr} {s t : State} (h : exec i s = .next t) :
    (i = .powerOnReset ∧
      t = { State.reset with pending := s.pending, undefinedDraws := redraw [] s.undefinedDraws }) ∨
    (∃ p q h, i = .openPage p q ∧ s.Opens q h t) ∨
    i ≠ .powerOnReset ∧ Changes s.pages none (s.begun i) none t := by
  cases i with
  | powerOnReset => cases h; exact .inl ⟨rfl, rfl⟩
  | openPage p q =>
    cases h
    rcases s.openPage_cases s.pages p q with ⟨h, opens⟩ | chain
    · exact .inr (.inl ⟨p, q, h, rfl, opens⟩)
    · exact .inr (.inr ⟨nofun, chain⟩)
  | _ => exact .inr (.inr ⟨nofun, exec_changes h nofun nofun⟩)

end Sys2Proof.Machine

/-! # What every change does to the scheduler, and to the records of the directory -/

namespace Sys2Proof.Machine

/-! ## The scheduler -/

/-- One step of the scheduler within an event. `A` holds of the units it is asked for. -/
inductive Scheduler.Step (A : Option UnitAddr → Prop) (t : Thermal) (c : Scheduler) : Scheduler → Prop
  | moves {c'} (h : c.Moves t c') : c.Step A t c'
  | asksWrite (q : WriteReq) (asked : A q.addr) : c.Step A t { c with encoderReq := some q }
  | asksPress (q : ReadReq) (asked : A q.addr) : c.Step A t { c with pressReq := some q }
  | asksProof (q : ReadReq) (asked : A q.addr) : c.Step A t { c with proofReq := some q }
  | rests : c.Step A t c.enterRetention

/-- The steps of the scheduler within an event. -/
abbrev Scheduler.Steps (A : Option UnitAddr → Prop) (t : Thermal) : Scheduler → Scheduler → Prop :=
  Relation.ReflTransGen (Scheduler.Step A t)

/-- The unit of the next write or read that a block of the part has to ask for. -/
def State.Asks (s : State) (a : Option UnitAddr) : Prop :=
  (∃ w x q, s.encoder = some w ∧ w.phase = .committing (.writing x) ∧
      commitWrite w x (s.page w.handle) = some q ∧ q.addr = a) ∨
    (∃ c q, s.pressChannel = some c ∧ c.nextRead (s.page c.handle).extents = some q ∧ q.addr = a) ∨
    ∃ c work q, s.proofChannel = some c ∧ c.buffer = .decoding work ∧
      work.nextRead .proof c.handle (c.band * c.shape.planes + c.plane) (s.page c.handle).extents = some q ∧
      q.addr = a

namespace Scheduler.Steps

variable {A : Option UnitAddr → Prop} {t : Thermal} {c : Scheduler}

theorem move {c' : Scheduler} (h : c.Moves t c') : Steps A t c c' := .single (.moves h)

/-- What every step keeps, the steps of an event keep. -/
theorem keeps {J : Scheduler → Prop} (step : ∀ {c c'}, Step A t c c' → J c → J c') {c' : Scheduler}
    (h : Steps A t c c') : J c → J c' := by
  induction h with
  | refl => exact id
  | tail _ last ih => exact fun j => step last (ih j)

theorem mono {B : Option UnitAddr → Prop} (sub : ∀ a, A a → B a) {c' : Scheduler} (h : Steps A t c c') :
    Steps B t c c' := by
  refine Relation.ReflTransGen.mono (fun c c' last => ?_) _ _ h
  cases last with
  | moves m => exact .moves m
  | asksWrite q asked => exact .asksWrite q (sub _ asked)
  | asksPress q asked => exact .asksPress q (sub _ asked)
  | asksProof q asked => exact .asksProof q (sub _ asked)
  | rests => exact .rests

end Scheduler.Steps

/-! ## Work given up, field by field -/

theorem State.tear_sched (s : State) :
    s.tear.sched = s.sched.withdrawWrite ∨ s.tear.sched = s.sched := by
  cases hw : s.encoder with
  | none => exact .inr (by rw [State.tear_none hw])
  | some w => exact .inl (by rw [State.tear_eq hw])

/-- The queue and the directory after a press delivery has ended. -/
def State.afterPress (s : State) (e : Ending) : State := if e = .done then s.removeHead else s

theorem State.endPress_none {s : State} (h : s.delivery = none) (e : Ending) (resume : Nat) :
    s.endPress e resume = s := by rw [State.endPress, h]

/-- References that end change nothing but the directory, and do so whatever else the state holds. -/
theorem State.dropRefs_congr {s u : State} (pages : u.pages = s.pages) (freeSet : u.freeSet = s.freeSet)
    (freeRecords : u.freeRecords = s.freeRecords) (h : Handle) (n : Nat) : u.dropRefs h n = { u with
      pages := (s.dropRefs h n).pages
      freeSet := (s.dropRefs h n).freeSet
      freeRecords := (s.dropRefs h n).freeRecords } := by
  have page : u.page h = s.page h := State.page_congr pages h
  unfold State.dropRefs State.freePage State.giveBack State.setPage
  simp only [page]
  split_ifs
  · rw [← pages, ← freeSet, ← freeRecords]
  · simp [State.page, pages, freeSet, freeRecords]
  · simp only [pages, ← freeSet, ← freeRecords]

theorem State.removeHead_eq (s : State) : s.removeHead = { s with
    queue := s.queue.tail
    pages := s.removeHead.pages
    freeSet := s.removeHead.freeSet
    freeRecords := s.removeHead.freeRecords } := by
  unfold State.removeHead
  cases hq : s.queue with
  | nil => dsimp only [List.tail]; rw [← hq]
  | cons h q =>
    exact State.dropRefs_congr (s := { s with queue := q }) rfl rfl rfl h 1

theorem State.removeHead_congr {s u : State} (pages : u.pages = s.pages) (freeSet : u.freeSet = s.freeSet)
    (freeRecords : u.freeRecords = s.freeRecords) (queue : u.queue = s.queue) : u.removeHead = { u with
      queue := s.queue.tail
      pages := s.removeHead.pages
      freeSet := s.removeHead.freeSet
      freeRecords := s.removeHead.freeRecords } := by
  rw [u.removeHead_eq]
  unfold State.removeHead
  rw [queue]
  split
  · rw [pages, freeSet, freeRecords]
  · next q _ =>
    rw [State.dropRefs_congr (s := { s with queue := q }) (u := { u with queue := q }) pages freeSet freeRecords]

theorem State.endPress_some {s : State} {d : Delivery} (h : s.delivery = some d) (e : Ending) (resume : Nat) :
    s.endPress e resume = { s.afterPress e with
      press := (s.press.send (.endNotice e d.handle resume)).withState .idle
      pressLate := s.pressLate || d.outstanding.isSome
      pressChannel := none
      delivery := none
      delivering := false
      sched := s.sched.withoutPress } := by
  rw [State.endPress, h]
  unfold State.afterPress
  dsimp only
  split
  · have head := State.removeHead_congr (s := s)
      (u := { (s.send .press (.endNotice e d.handle resume)).idlePress with delivering := false }) rfl rfl rfl rfl
    rw [head, s.removeHead_eq]
    rfl
  · rfl

theorem State.endView_none {s : State} (h : s.view = none) (e : Ending) (resume : Nat) :
    s.endView e resume = s := by rw [State.endView, h]

theorem State.endView_some {s : State} {x : ViewRecord} (h : s.view = some x) (e : Ending) (resume : Nat) :
    s.endView e resume = { s.dropRefs x.handle 1 with
      proof := (s.proof.send (.endNotice e x.handle resume)).withState .idle
      proofLate := s.proofLate || x.outstanding.isSome
      proofChannel := none
      view := none
      sched := s.sched.withdrawRead .proof } := by
  rw [State.endView, h]
  dsimp only
  rw [State.dropRefs_congr (s := s) (u := (s.send .proof (.endNotice e x.handle resume)).idleProof) rfl rfl rfl,
    State.dropRefs_congr (s := s) (u := s) rfl rfl rfl]
  rfl

theorem State.dropView_eq {s : State} {x : ViewRecord} (h : s.view = some x) : s.dropView =
    { s.dropRefs x.handle 1 with
      proofLate := false
      proofChannel := none
      view := none
      sched := s.sched.withdrawRead .proof } := by
  rw [State.dropView_some h, State.dropRefs_idleProof]

variable {v : Vector PageRecord 256} {o o' : Option Port} {s t : State}

theorem Change.thermal_eq (h : Change v o s o' t) : t.thermal = s.thermal := by
  cases h with
  | clears => rfl
  | resumes => rfl
  | defers => rfl
  | _ => simp

/-- Every change moves the scheduler by its steps, which ask for what the blocks have to ask for. -/
theorem Change.sched_steps (h : Change v o s o' t) : Scheduler.Steps s.Asks s.thermal s.sched t.sched := by
  cases h with
  | tears =>
    rcases s.tear_sched with e | e <;> rw [e]
    exact .move .dropsWrite
  | rests => exact .single .rests
  | clears => exact .move (.dropsRead _)
  | endsPress e resume =>
    cases hd : s.delivery with
    | none => rw [State.endPress_none hd]
    | some d =>
      rw [State.endPress_some hd]
      exact (Scheduler.Steps.move (.dropsRead _)).tail (.moves (.dropsRead _))
  | dropsPress => exact (Scheduler.Steps.move (.dropsRead _)).tail (.moves (.dropsRead _))
  | endsView e resume =>
    cases hx : s.view with
    | none => rw [State.endView_none hx]
    | some x => rw [State.endView_some hx]; exact .move (.dropsRead _)
  | dropsView =>
    cases hx : s.view with
    | none => rw [State.dropView_none hx]; exact .move (.dropsRead _)
    | some x => rw [State.dropView_eq hx]; exact .move (.dropsRead _)
  | sched moves => exact .move moves
  | presentsWrite =>
    rcases s.presentWrite_cases with e | ⟨w, x, q, hw, hx, -, -, hq, e⟩ <;> rw [e]
    exact .tail (.single (.asksWrite q (.inl ⟨w, x, q, hw, hx, hq, rfl⟩))) (.moves .grants)
  | presentsPress =>
    rcases s.presentPress_cases with e | ⟨c, q, hc, -, -, hq, e⟩ <;> rw [e]
    exact .tail (.single (.asksPress q (.inr (.inl ⟨c, q, hc, hq, rfl⟩)))) (.moves .grants)
  | presentsProof =>
    rcases s.presentProof_cases with e | ⟨c, work, q, hc, hb, -, -, hq, e⟩ <;> rw [e]
    exact .tail (.single (.asksProof q (.inr (.inr ⟨c, work, q, hc, hb, hq, rfl⟩)))) (.moves .grants)
  | defers => exact .refl
  | resumes => exact .refl
  | _ => simp; exact .refl

/-! ## What a command that is not refused found -/

theorem continueRefusal_none {h : Handle} {r : PageRecord} (ok : continueRefusal h r = none) :
    r.state = .torn ∧ r.holdReason = none ∧ r.releasePending = false ∧ r.references = 0 ∧ r.firstDamaged = none := by
  unfold continueRefusal at ok
  split_ifs at ok
  simp_all

theorem enqueueRefusal_none {n m : Nat} {r : PageRecord} (ok : enqueueRefusal n m r = none) :
    r.state = .sealed ∧ r.releasePending = false ∧ 1 ≤ n ∧ m + n ≤ 64 := by
  unfold enqueueRefusal at ok
  split_ifs at ok
  simp_all
  omega

theorem rebindRefusal_none {r : PageRecord} (ok : rebindRefusal r = none) :
    r.state = .sealed ∧ r.releasePending = false := by
  unfold rebindRefusal at ok
  split_ifs at ok
  simp_all

theorem startRefusal_none {b l tr : Nat} {r : PageRecord} (ok : startRefusal b l tr r = none) :
    r.state = .sealed ∧ b < r.shape.bands := by
  unfold startRefusal at ok
  split_ifs at ok
  simp_all

theorem holdRefusal_none {reason : Byte} {r : PageRecord} (ok : holdRefusal reason r = none) :
    r.state ≠ .free ∧ r.state ≠ .filling ∧ r.releasePending = false := by
  unfold holdRefusal at ok
  split_ifs at ok
  simp_all

theorem viewRefusal_none {q : ViewParams} {r : PageRecord} (ok : viewRefusal q r = none) :
    (r.state = .sealed ∨ r.state = .damaged ∨ r.state = .torn) ∧ r.releasePending = false ∧
      q.planeMask ≠ 0 ∧ (∀ j ∈ maskPlanes q.planeMask, j < r.planes) ∧ q.firstBand.toNat < r.usableEnd := by
  unfold viewRefusal at ok
  split_ifs at ok with frame free readable pending mask band
  simp only [Bool.not_eq_true', Bool.not_eq_false] at frame readable
  simp only [viewFrameGood, Bool.and_eq_true, bne_iff_ne] at frame
  refine ⟨?_, by simpa using pending, frame.1.1.1.1, by simpa using mask, by omega⟩
  simp at readable
  tauto

/-! ## The records -/

/-- How a record stands to what it was earlier in the event: it holds no page, or the page it held. -/
structure PageRecord.Same (r r' : PageRecord) : Prop where
  shape : r'.shape = r.shape
  retention : r'.retention = r.retention
  pending : r.releasePending = true → r'.releasePending = true

theorem PageRecord.Same.refl (r : PageRecord) : r.Same r := ⟨rfl, rfl, id⟩

theorem PageRecord.Same.trans {r r' r'' : PageRecord} (h : r.Same r') (h' : r'.Same r'') : r.Same r'' :=
  ⟨h'.shape.trans h.shape, h'.retention.trans h.retention, fun p => h'.pending (h.pending p)⟩

/-- A record as an event leaves it: FREE, or of the page it held, which was not FREE. -/
def PageRecord.Stays (r r' : PageRecord) : Prop := r'.state ≠ .free → r.state ≠ .free ∧ r.Same r'

theorem PageRecord.Stays.refl (r : PageRecord) : r.Stays r := fun used => ⟨used, .refl r⟩

theorem PageRecord.Stays.trans {r r' r'' : PageRecord} (h : r.Stays r') (h' : r'.Stays r'') : r.Stays r'' :=
  fun used => ⟨(h (h' used).1).1, (h (h' used).1).2.trans (h' used).2⟩

theorem PageRecord.stays_free (r : PageRecord) : r.Stays PageRecord.free := fun used => absurd rfl used

theorem PageRecord.stays_markDamaged (r : PageRecord) (n : Nat) : r.Stays (r.markDamaged n) := by
  refine fun used => ⟨fun free => used ?_, rfl, rfl, id⟩
  simp [PageRecord.markDamaged, free]

theorem PageRecord.stays_afterRest (kept : List Nat) (r : PageRecord) : r.Stays (r.afterRest kept) := by
  unfold PageRecord.afterRest
  split
  · next loses =>
    have := (r.losesAt_iff kept).mp loses
    exact fun _ => ⟨by rcases this.1 with h | h | h <;> simp [h], rfl, rfl, id⟩
  · exact .refl r

theorem PageRecord.stays_deviceReset (r : PageRecord) : r.Stays r.deviceReset := by
  unfold PageRecord.deviceReset
  split
  · exact r.stays_free
  · exact fun used => ⟨used, rfl, rfl, id⟩

/-- A record of the same page, FREE where it was FREE. -/
theorem PageRecord.Same.stays {r r' : PageRecord} (same : r.Same r') (state : r'.state = r.state) : r.Stays r' :=
  fun used => ⟨state ▸ used, same⟩

/-- A record of the directory set to one that holds the same page, or none. -/
theorem State.stays_setPage {s : State} {h : Handle} {r : PageRecord} (stays : (s.page h).Stays r) (k : Handle) :
    (s.page k).Stays ((s.setPage h r).page k) := by
  rw [State.page_setPage_if]
  split
  · next e => exact e ▸ stays
  · exact .refl _

theorem State.stays_freePage (s : State) (h k : Handle) : (s.page k).Stays ((s.freePage h).page k) := by
  rw [State.page_freePage]
  split
  · exact PageRecord.stays_free _
  · exact .refl _

theorem State.stays_dropRefs (s : State) (h : Handle) (n : Nat) (k : Handle) :
    (s.page k).Stays ((s.dropRefs h n).page k) := by
  rcases s.dropRefs_cases h n with ⟨-, e⟩ | ⟨-, -, -, e⟩ | ⟨-, -, e⟩ <;> rw [e]
  · exact .refl _
  · exact s.stays_freePage h k
  · exact State.stays_setPage (r := (s.page h).dropRefs n) (fun used => ⟨used, rfl, rfl, id⟩) k

theorem State.stays_updatePage (s : State) (h : Handle) (f : PageRecord → PageRecord)
    (stays : (s.page h).Stays (f (s.page h))) (k : Handle) : (s.page k).Stays ((s.updatePage h f).page k) :=
  State.stays_setPage stays k

theorem State.stays_addRefs (s : State) (h : Handle) (n : Nat) (k : Handle) :
    (s.page k).Stays ((s.addRefs h n).page k) :=
  s.stays_updatePage h _ (by exact PageRecord.Same.stays ⟨rfl, rfl, id⟩ rfl) k

theorem State.stays_removeHead (s : State) (k : Handle) : (s.page k).Stays (s.removeHead.page k) := by
  unfold State.removeHead
  split
  · exact .refl _
  · exact State.stays_dropRefs { s with queue := _ } _ _ k

theorem State.stays_afterPress (s : State) (e : Ending) (k : Handle) : (s.page k).Stays ((s.afterPress e).page k) := by
  unfold State.afterPress
  split
  · exact s.stays_removeHead k
  · exact .refl _

theorem State.stays_of_pages {s t : State} (e : t.pages = s.pages) (k : Handle) : (s.page k).Stays (t.page k) := by
  rw [State.page_congr e]
  exact .refl _

/-- The encoder's page goes to another state: it was not FREE, or the event found it so. -/
theorem State.encoder_stays {w : EncoderWork} (working : s.encoder = some w) (since : s.EncoderSince v) {r : PageRecord}
    (same : (s.page w.handle).Same r) (k : Handle) : (s.page k).Stays ((s.setPage w.handle r).page k) ∨
      (s.page k).Same ((s.setPage w.handle r).page k) ∧ v[k.toNat].state = .free ∧
        ∃ w, s.encoder = some w ∧ w.handle = k := by
  rw [State.page_setPage_if]
  split
  · next e =>
    subst e
    by_cases free : (s.page w.handle).state = .free
    · exact .inr ⟨same, since w working free, w, working, rfl⟩
    · exact .inl fun _ => ⟨free, same⟩
  · exact .inl (.refl _)

/-- Every change leaves a record as it was, or FREE, or of the same page, but for the encoder's page where the
event found that FREE. -/
theorem Change.page_stays (h : Change v o s o' t) (k : Handle) :
    (s.page k).Stays (t.page k) ∨ (s.page k).Same (t.page k) ∧ v[k.toNat].state = .free ∧
      ∃ w, s.encoder = some w ∧ w.handle = k := by
  cases h with
  | extentsTaken => exact .inl (State.stays_setPage (s := s) (by exact PageRecord.Same.stays ⟨rfl, rfl, id⟩ rfl) k)
  | committed => exact .inl (State.stays_setPage (s := s) (by exact PageRecord.Same.stays ⟨rfl, rfl, id⟩ rfl) k)
  | resumes h ok =>
    have used : (s.page h).state ≠ .free := by simp [(continueRefusal_none ok).1]
    exact .inl (State.stays_setPage (s := s) (by exact fun _ => ⟨used, rfl, rfl, id⟩) k)
  | seals working still all since => exact State.encoder_stays (s := s) working since (by exact ⟨rfl, rfl, id⟩) k
  | @abandons _ _ w => exact .inl (s.stays_freePage w.handle k)
  | tears since =>
    rcases Option.eq_none_or_eq_some s.encoder with hw | ⟨w, hw⟩
    · exact .inl (by rw [State.tear_none hw]; exact .refl _)
    · rw [State.tear_eq hw]
      exact State.encoder_stays (s := s) hw since (by exact ⟨rfl, rfl, id⟩) k
  | enqueues h n => exact .inl (s.stays_addRefs h n k)
  | rebinds old new =>
    exact .inl ((State.stays_addRefs { s with queue := s.reboundQueue old new } new (s.rebindCount old new) k).trans
      (State.stays_dropRefs _ old (s.rebindCount old new) k))
  | skips => exact .inl (s.stays_removeHead k)
  | marksPending h => exact .inl (State.stays_setPage (by exact PageRecord.Same.stays ⟨rfl, rfl, fun _ => rfl⟩ rfl) k)
  | frees h => exact .inl (s.stays_freePage h k)
  | holds h => exact .inl (s.stays_updatePage h _ (by exact PageRecord.Same.stays ⟨rfl, rfl, id⟩ rfl) k)
  | lifts h => exact .inl (s.stays_updatePage h _ (by exact PageRecord.Same.stays ⟨rfl, rfl, id⟩ rfl) k)
  | rests =>
    refine .inl ?_
    rw [show s.completeRest.page k = (s.losePages s.retainedSegments).page k from rfl, State.page_losePages]
    exact PageRecord.stays_afterRest _ _
  | clears =>
    refine .inl ?_
    rw [State.page_resetDirectory]
    exact PageRecord.stays_deviceReset _
  | pressDamages => exact .inl (s.stays_updatePage _ _ (PageRecord.stays_markDamaged _ _) k)
  | proofDamages => exact .inl (s.stays_updatePage _ _ (PageRecord.stays_markDamaged _ _) k)
  | endsPress e resume =>
    refine .inl ?_
    cases hd : s.delivery with
    | none => rw [State.endPress_none hd]; exact .refl _
    | some d => rw [State.endPress_some hd]; exact s.stays_afterPress e k
  | endsView =>
    refine .inl ?_
    cases hx : s.view with
    | none => rw [State.endView_none hx]; exact .refl _
    | some x => rw [State.endView_some hx]; exact s.stays_dropRefs _ 1 k
  | dropsView =>
    refine .inl ?_
    cases hx : s.view with
    | none => rw [State.dropView_none hx]; exact .refl _
    | some x => rw [State.dropView_eq hx]; exact s.stays_dropRefs _ 1 k
  | views q => exact .inl (s.stays_addRefs q.handle 1 k)
  | defers => exact .inl (.refl _)
  | _ => exact .inl (State.stays_of_pages (by simp) k)

end Sys2Proof.Machine

/-! # Rules over all commands -/

namespace Sys2Proof.Machine

/-! ## The beginning of an event -/

@[simp] theorem State.begun_pages (s : State) (i : Instr) : (s.begun i).pages = s.pages := by
  unfold State.begun
  split
  · rfl
  · split <;> rfl
  · rfl

theorem Scheduler.expire_grant (c : Scheduler) (t : Thermal) : (c.expire t).grant = c.grant := by
  unfold Scheduler.expire
  split <;> rfl

theorem Scheduler.expire_refreshMissed (c : Scheduler) (t : Thermal) :
    (c.expire t).refreshMissed = true ↔ c.refreshMissed = true ∨ 8 ≤ c.debt := by
  unfold Scheduler.expire
  split
  · next low => simp [not_le.mpr low]
  · next high => simp [not_lt.mp high]

theorem State.begun_grant (s : State) (i : Instr) : (s.begun i).sched.grant = s.sched.grant := by
  unfold State.begun
  split
  · rfl
  · split
    · exact Scheduler.expire_grant ..
    · rfl
  · rfl

/-- REFRESH_MISSED rises at an expiry that finds the debt at 8, and there alone (R157). -/
theorem State.begun_refreshMissed (s : State) (i : Instr) : (s.begun i).sched.refreshMissed = true ↔
    s.sched.refreshMissed = true ∨ i = .refreshTimerExpiry ∧ s.sched.timerRunning = true ∧ 8 ≤ s.sched.debt := by
  cases i with
  | refreshTimerExpiry =>
    unfold State.begun
    dsimp only
    split
    · next running => simpa [running, State.updateSched] using Scheduler.expire_refreshMissed ..
    · next still => simp [still]
  | _ => exact (or_iff_left (fun h => nomatch h.1)).symm

/-! ## The scheduler in an event -/

variable {A : Option UnitAddr → Prop} {t : Thermal} {c c' : Scheduler}

theorem Scheduler.grantNext_refreshMissed (c : Scheduler) (t : Thermal) :
    (c.grantNext t).refreshMissed = c.refreshMissed := by
  rcases c.grantNext_cases t with ⟨e, -⟩ | ⟨-, -, k, -, -, -, e⟩ <;> rw [e]
  cases k <;> rfl

theorem Scheduler.Steps.refreshMissed_eq (h : Scheduler.Steps A t c c') : c'.refreshMissed = c.refreshMissed := by
  refine h.keeps (J := fun x => x.refreshMissed = c.refreshMissed) (fun last j => ?_) rfl
  cases last with
  | moves m =>
    cases m with
    | grants => exact (Scheduler.grantNext_refreshMissed ..).trans j
    | _ => exact j
  | _ => exact j

/-- The transfers of the encoder and of the proof channel that are granted were granted in `c` (R159). -/
def Scheduler.GrantedIn (c c' : Scheduler) : Prop :=
  (∀ q live, c'.grant = some (.encoder q live) → ∃ was, c.grant = some (.encoder q was)) ∧
    ∀ q live, c'.grant = some (.proof q live) → ∃ was, c.grant = some (.proof q was)

/-- Giving up work leaves a granted transfer in progress. -/
theorem Scheduler.GrantedIn.of_eq (h : c.GrantedIn c') {x : Scheduler} (e : x.grant = c'.grant) : c.GrantedIn x := by
  unfold Scheduler.GrantedIn at *
  rwa [e]

theorem Scheduler.GrantedIn.of_none (c : Scheduler) {x : Scheduler} (e : x.grant = none ∨ x.grant = some .refresh ∨
    ∃ q live, x.grant = some (.press q live)) : c.GrantedIn x := by
  rcases e with e | e | ⟨q, live, e⟩ <;> constructor <;> intro q live h <;> rw [e] at h <;> cases h

/-- In HOT the scheduler grants no transfer of the encoder or of the proof channel (R159). -/
theorem Scheduler.GrantedIn.grantNext (h : c.GrantedIn c') : c.GrantedIn (c'.grantNext .hot) := by
  rcases c'.grantNext_cases .hot with ⟨e, -⟩ | ⟨-, -, k, -, eligible, -, e⟩ <;> rw [e]
  · exact h
  · cases k with
    | pressTransfer =>
      obtain ⟨q, hq⟩ := Option.isSome_iff_exists.mp eligible
      exact .of_none c (.inr (.inr ⟨q, true, by simp [Scheduler.granted, hq]⟩))
    | encoderTransfer => simp [Scheduler.eligible] at eligible
    | proofTransfer => simp [Scheduler.eligible] at eligible
    | _ => exact .of_none c (.inr (.inl rfl))

theorem Scheduler.GrantedIn.map (h : c.GrantedIn c') {f : Grant → Grant}
    (enc : ∀ g q live, f g = .encoder q live → ∃ was, g = .encoder q was)
    (prf : ∀ g q live, f g = .proof q live → ∃ was, g = .proof q was) {x : Scheduler}
    (e : x.grant = c'.grant.map f) : c.GrantedIn x := by
  constructor
  · intro q live hx
    obtain ⟨g, hg, hf⟩ := Option.map_eq_some_iff.mp (e ▸ hx)
    obtain ⟨was, rfl⟩ := enc g q live hf
    exact h.1 q was hg
  · intro q live hx
    obtain ⟨g, hg, hf⟩ := Option.map_eq_some_iff.mp (e ▸ hx)
    obtain ⟨was, rfl⟩ := prf g q live hf
    exact h.2 q was hg

theorem Scheduler.Steps.grantedIn (h : Scheduler.Steps A .hot c c') : c.GrantedIn c' := by
  refine h.keeps (J := c.GrantedIn) (fun last j => ?_) ⟨fun q live h => ⟨live, h⟩, fun q live h => ⟨live, h⟩⟩
  cases last with
  | moves m =>
    cases m with
    | grants => exact j.grantNext
    | dropsWrite =>
      refine j.map (f := (·.orphanWrite)) (fun g q live h => ?_) (fun g q live h => ?_) rfl <;>
        cases g <;> cases h <;> exact ⟨_, rfl⟩
    | dropsRead k =>
      refine j.map (f := (·.orphanRead k)) (fun g q live h => ?_) (fun g q live h => ?_) rfl <;>
        cases g <;> cases h <;> exact ⟨_, rfl⟩
    | completes => exact .of_none c (.inl rfl)
    | _ => exact j.of_eq rfl
  | _ => exact j.of_eq rfl

/-! ## Chains -/

variable {v : Vector PageRecord 256} {o o' : Option Port} {s u : State}

theorem Changes.sched_steps (h : Changes v o s o' u) :
    u.thermal = s.thermal ∧ Scheduler.Steps (fun _ => True) s.thermal s.sched u.sched := by
  induction h with
  | done => exact ⟨rfl, .refl⟩
  | next first _ ih =>
    have same := first.thermal_eq
    rw [same] at ih
    exact ⟨ih.1, (first.sched_steps.mono fun _ _ => trivial).trans ih.2⟩

/-- What an event found at a handle and what it left there: of a page in both, the page's own parameters are the
same (R1, R20). -/
theorem Changes.page_same (h : Changes v o s o' u) (found : v = s.pages) (k : Handle) (before : (s.page k).state ≠ .free)
    (after : (u.page k).state ≠ .free) : (s.page k).Same (u.page k) := by
  subst found
  have stays : (s.page k).Stays (u.page k) := by
    refine h.keeps (J := fun _ x => (s.page k).Stays (x.page k)) (fun change j => ?_) (.refl _)
    rcases change.page_stays k with next | ⟨-, free, -⟩
    · exact j.trans next
    · exact absurd free before
  exact (stays after).2

/-- The records once a page has been opened. -/
theorem State.Opens.page {q : OpenParams} {h : Handle} {u : State} (opens : s.Opens q h u) (k : Handle) :
    u.page k = if k = h then openedRecord q else s.page k := by
  have pages : u.pages = (s.setPage h (openedRecord q)).pages := by
    simp [opens.result, State.openAt, State.taken, State.setPage]
  rw [State.page_congr pages, State.page_setPage_if]

end Sys2Proof.Machine

section

open Sys2Proof Sys2Proof.Machine

/-- Settles O60: every command is a chain of changes, each of which keeps the three rules. -/
theorem wholeMachineRules : Obligations.WholeMachineRules := by
  intro i s t h
  rcases exec_cases h with ⟨rfl, rfl⟩ | ⟨p, q, h, rfl, opens⟩ | ⟨other, chain⟩
  · exact ⟨fun hot => (nomatch hot), by simp [Scheduler.reset], fun h _ used => absurd (congrArg _ (State.page_reset h)) used⟩
  · have sched : t.sched = s.sched := by simp [opens.result, State.openAt, State.taken]
    refine ⟨fun _ => ?_, by simp [sched], fun k before after => ?_⟩
    · rw [sched]
      exact ⟨fun q live h => ⟨live, h⟩, fun q live h => ⟨live, h⟩⟩
    · have same : t.page k = s.page k := by
        rw [opens.page, if_neg (by rintro rfl; exact before opens.free)]
      rw [same]
      exact ⟨rfl, rfl, id⟩
  · obtain ⟨thermal, steps⟩ := chain.sched_steps
    refine ⟨fun hot => ?_, ?_, fun h before after => ?_⟩
    · rw [← thermal, hot] at steps
      have granted := steps.grantedIn
      rwa [Scheduler.GrantedIn, State.begun_grant] at granted
    · rw [steps.refreshMissed_eq, State.begun_refreshMissed]
      simp [other]
    · have page : (s.begun i).page h = s.page h := State.page_congr (s.begun_pages i) h
      have same := chain.page_same (s.begun_pages i).symm h (page.symm ▸ before) after
      rw [page] at same
      exact ⟨same.shape, same.retention, same.pending⟩

end

/-! # What every step keeps: ranges, canonical forms and the ports' rules -/

namespace Sys2Proof.Machine

/-- A command keeps what its parts keep: the resets, the opening of a page, the beginning of an event, and every
change. -/
theorem exec_keeps {J : Option Port → State → Prop} {i : Instr} {s t : State} (h : exec i s = .next t)
    (found : J none s)
    (reset : ∀ rest draws, J none { State.reset with pending := rest, undefinedDraws := draws })
    (change : ∀ {o u o' u'}, Change s.pages o u o' u' → J o u → J o' u')
    (opens : ∀ u q k, q.InRange → (u.page k).state = .free → u.compose.state = .idle →
      J (some .compose) u → J (some .compose) (u.openAt k q))
    (begun : J none (s.begun i)) : J none t := by
  rcases exec_cases h with ⟨-, rfl⟩ | ⟨p, q, k, -, opened⟩ | ⟨-, chain⟩
  · exact reset _ _
  · rw [opened.result]
    have taken : J (some .compose) (s.taken .compose .openPage) :=
      change (.takes .compose _ opened.takes.1 opened.takes.2.1) found
    refine change (.replies .compose _ .ok [k]) (opens _ q k opened.good ?_ ?_ taken)
    · rw [State.page_taken]
      exact opened.free
    · exact (s.taken_state .compose _).trans (by simpa [Cmd.states] using opened.takes.allowed.2)
  · exact chain.keeps change begun

/-- What a command makes of a property that says nothing about the commands that wait, a step makes of it. -/
theorem step_keeps {J K : State → Prop} {s t : State} (h : step s = .next t) (found : J s) (idles : J s → K s)
    (waiting : ∀ rest, J s → J { s with pending := rest })
    (command : ∀ i u, J u → exec i u = .next t → K t) : K t := by
  unfold step at h
  split at h
  · cases h
    exact idles found
  · exact command _ _ (waiting _ found) h

variable {v : Vector PageRecord 256} {o o' : Option Port} {s t : State}

/-! ## The refresh debt (R156) -/

/-- The debt lies in its range. -/
def Scheduler.DebtKept (c : Scheduler) : Prop := -8 ≤ c.debt ∧ c.debt ≤ 8

theorem Scheduler.DebtKept.grantNext {c : Scheduler} (h : c.DebtKept) (t : Thermal) : (c.grantNext t).DebtKept := by
  rcases c.grantNext_cases t with ⟨e, -⟩ | ⟨-, -, k, -, eligible, -, e⟩ <;> rw [e]
  · exact h
  · unfold Scheduler.DebtKept at *
    cases k with
    | forcedRefresh | owedRefresh | pullIn =>
      simp [Scheduler.eligible] at eligible
      simp only [Scheduler.granted]
      omega
    | pressTransfer | encoderTransfer | proofTransfer => exact h

theorem Scheduler.Steps.debtKept {A : Option UnitAddr → Prop} {x : Thermal} {c c' : Scheduler}
    (h : Scheduler.Steps A x c c') (kept : c.DebtKept) : c'.DebtKept := by
  refine h.keeps (J := Scheduler.DebtKept) (fun last j => ?_) kept
  cases last with
  | moves m =>
    cases m with
    | grants => exact j.grantNext _
    | wakes => exact (by decide : (-8 : Int) ≤ 1 ∧ (1 : Int) ≤ 8)
    | _ => exact j
  | _ => exact j

theorem exec_keeps_debtInRange {i : Instr} (kept : s.DebtInRange) (h : exec i s = .next t) : t.DebtInRange := by
  refine exec_keeps (J := fun _ u => u.sched.DebtKept) h kept
    (fun _ _ => (by decide : (-8 : Int) ≤ 0 ∧ (0 : Int) ≤ 8))
    (fun change j => change.sched_steps.debtKept j) (fun u q k _ _ _ j => j) ?_
  unfold State.begun
  split
  · exact kept
  · split
    · show (s.sched.expire s.thermal).DebtKept
      unfold State.DebtInRange at kept
      unfold Scheduler.expire Scheduler.DebtKept
      split <;> dsimp only <;> omega
    · exact kept
  · exact kept

/-! ## The queue (R109) -/

theorem State.reboundQueue_length (s : State) (old new : Handle) : (s.reboundQueue old new).length = s.queue.length := by
  unfold State.reboundQueue rebindEntries
  split
  · simp only [List.length_append, List.length_map, List.length_take, List.length_drop]
    omega
  · simp

theorem State.removeHead_queue (s : State) : s.removeHead.queue = s.queue.tail := by rw [s.removeHead_eq]

theorem State.afterPress_queue (s : State) (e : Ending) :
    (s.afterPress e).queue = if e = .done then s.queue.tail else s.queue := by
  unfold State.afterPress
  split
  · exact s.removeHead_queue
  · rfl

theorem Change.queueBounded (h : Change v o s o' t) (kept : s.QueueBounded) : t.QueueBounded := by
  unfold State.QueueBounded at *
  cases h with
  | enqueues k n ok =>
    have := (enqueueRefusal_none ok).2.2.2
    simpa using this
  | rebinds old new => simpa [State.reboundQueue_length] using kept
  | skips =>
    rw [State.removeHead_queue, List.length_tail]
    omega
  | clears => exact Nat.zero_le _
  | endsPress e resume =>
    cases hd : s.delivery with
    | none => rwa [State.endPress_none hd]
    | some d =>
      rw [State.endPress_some hd]
      show (s.afterPress e).queue.length ≤ 64
      rw [State.afterPress_queue]
      split
      · rw [List.length_tail]; omega
      · exact kept
  | defers => exact kept
  | resumes => exact kept
  | _ => simpa using kept

/-! ## The last reading (R164) -/

theorem readingOf_range (x : SensorValue) : -40 ≤ readingOf x ∧ readingOf x ≤ 150 := by
  unfold readingOf
  dsimp only
  split
  · omega
  · split <;> omega

theorem Change.lastReading_eq (h : Change v o s o' t) : t.lastReading = s.lastReading := by
  cases h with
  | clears => rfl
  | resumes => rfl
  | defers => rfl
  | _ => simp

theorem exec_keeps_readingInRange {i : Instr} (kept : s.ReadingInRange) (h : exec i s = .next t) : t.ReadingInRange := by
  refine exec_keeps (J := fun _ u => u.ReadingInRange) h kept (fun _ _ => nofun)
    (fun change j => ?_) (fun u q k _ _ _ j => j) ?_
  · unfold State.ReadingInRange
    rw [change.lastReading_eq]
    exact j
  · unfold State.begun
    split
    · intro r hr
      cases hr
      exact readingOf_range _
    · split <;> exact kept
    · exact kept

/-! ## Late tokens (R131, R147) -/

/-- No block of the press delivery is outstanding while its late token is owed. -/
def State.PressOnTime (s : State) : Prop := s.pressLate = true → ∀ d, s.delivery = some d → d.outstanding = none

/-- No block of the view is outstanding while its late token is owed. -/
def State.ProofOnTime (s : State) : Prop := s.proofLate = true → ∀ x, s.view = some x → x.outstanding = none

theorem Change.pressOnTime_kept (h : Change v o s o' t) (kept : s.PressOnTime) : t.PressOnTime := by
  unfold State.PressOnTime at *
  cases h with
  | begins => exact fun _ d e => by cases e; rfl
  | delivery d' running handle late =>
    rintro owed d ⟨⟩
    rcases late with e | e | e
    · exact e
    · exact e.trans (kept owed _ running)
    · exact absurd owed (by simp [e])
  | endsPress e resume =>
    cases hd : s.delivery with
    | none => rwa [State.endPress_none hd]
    | some d => rw [State.endPress_some hd]; exact fun _ _ => nofun
  | dropsPress => exact fun _ _ => nofun
  | pressOnTime => exact nofun
  | clears => exact kept
  | resumes => exact kept
  | defers => exact kept
  | _ => simpa using kept

theorem Change.proofOnTime_kept (h : Change v o s o' t) (kept : s.ProofOnTime) : t.ProofOnTime := by
  unfold State.ProofOnTime at *
  cases h with
  | views => exact fun _ d e => by cases e; rfl
  | view d' running handle range mask late =>
    rintro owed d ⟨⟩
    rcases late with e | e | e
    · exact e
    · exact e.trans (kept owed _ running)
    · exact absurd owed (by simp [e])
  | endsView e resume =>
    cases hx : s.view with
    | none => rwa [State.endView_none hx]
    | some x => rw [State.endView_some hx]; exact fun _ _ => nofun
  | dropsView =>
    cases hx : s.view with
    | none => rw [State.dropView_none hx]; exact nofun
    | some x => rw [State.dropView_eq hx]; exact nofun
  | proofOnTime => exact nofun
  | clears => exact fun _ _ => nofun
  | resumes => exact kept
  | defers => exact kept
  | _ => simpa using kept

/-! ## The store's contents and the free set -/

theorem Change.storeWf (h : Change v o s o' t) (kept : s.StoreWf) : t.StoreWf := by
  unfold State.StoreWf at *
  cases h with
  | rests => exact Memory.wf_keepSegments kept _
  | clears => exact kept
  | resumes => exact kept
  | defers => exact kept
  | stores m wf => exact wf kept
  | _ => simpa using kept

/-! ### Takes and returns of extents -/

theorem spansWf_takeLowest {f f' : List Span} {e : Nat} (wf : spansWf f) (h : takeLowest f = some (e, f')) :
    spansWf f' := by
  cases f with
  | nil => cases h
  | cons x f =>
    cases h
    obtain ⟨hx, gap, hf⟩ := spansWf_cons.mp wf
    split
    · next lt => exact spansWf_cons.mpr ⟨lt, gap, hf⟩
    · exact hf

theorem takeHighest_cons {x y : Span} {f f' : List Span} {e : Nat} (h : takeHighest (x :: y :: f) = some (e, f')) :
    ∃ rest, takeHighest (y :: f) = some (e, rest) ∧ f' = x :: rest := by
  obtain ⟨⟨e', rest⟩, taken, same⟩ := Option.map_eq_some_iff.mp h
  cases same
  exact ⟨rest, taken, rfl⟩

theorem first_of_mem_takeHighest {f f' : List Span} {e : Nat} (h : takeHighest f = some (e, f')) {x : Span}
    (hx : x ∈ f') : ∃ y ∈ f, x.first = y.first := by
  induction f generalizing e f' with
  | nil => cases h
  | cons a f ih =>
    cases f with
    | nil =>
      cases h
      split at hx
      · exact ⟨a, by simp, by rw [List.mem_singleton.mp hx]⟩
      · simp at hx
    | cons b f =>
      obtain ⟨rest, taken, rfl⟩ := takeHighest_cons h
      rcases List.mem_cons.mp hx with rfl | hx
      · exact ⟨x, by simp, rfl⟩
      · obtain ⟨y, hy, e⟩ := ih taken hx
        exact ⟨y, List.mem_cons_of_mem _ hy, e⟩

theorem spansWf_takeHighest {f f' : List Span} {e : Nat} (wf : spansWf f) (h : takeHighest f = some (e, f')) :
    spansWf f' := by
  induction f generalizing e f' with
  | nil => cases h
  | cons a f ih =>
    obtain ⟨ha, gap, hf⟩ := spansWf_cons.mp wf
    cases f with
    | nil =>
      cases h
      split
      · next lt => exact spansWf_cons.mpr ⟨by dsimp only; omega, by simp, spansWf_nil⟩
      · exact spansWf_nil
    | cons b f =>
      obtain ⟨rest, taken, rfl⟩ := takeHighest_cons h
      refine spansWf_cons.mpr ⟨ha, fun x hx => ?_, ih hf taken⟩
      obtain ⟨y, hy, e⟩ := first_of_mem_takeHighest taken hx
      exact e ▸ gap y hy

theorem takeExtents_succ {r : Retention} {n : Nat} {f f' : List Span} {es : List Nat}
    (h : takeExtents r (n + 1) f = some (es, f')) :
    ∃ e es' rest, takeOne r f = some (e, rest) ∧ takeExtents r n rest = some (es', f') ∧ es = e :: es' := by
  unfold takeExtents at h
  split at h
  · cases h
  · next e rest one =>
    obtain ⟨⟨es', f''⟩, more, same⟩ := Option.map_eq_some_iff.mp h
    cases same
    exact ⟨e, es', rest, one, more, rfl⟩

theorem spansWf_takeExtents {r : Retention} {n : Nat} {f f' : List Span} {es : List Nat} (wf : spansWf f)
    (h : takeExtents r n f = some (es, f')) : spansWf f' := by
  induction n generalizing f es with
  | zero => cases h; exact wf
  | succ n ih =>
    obtain ⟨e, es', rest, one, more, -⟩ := takeExtents_succ h
    refine ih ?_ more
    cases r with
    | keep => exact spansWf_takeLowest wf one
    | volatile => exact spansWf_takeHighest wf one

/-- What an event may do to the free set beside a commit's take: extents return to it. -/
def Returned (f f' : List Span) : Prop := ∃ es, f' = returnExtents es f

theorem Returned.refl (f : List Span) : Returned f f := ⟨[], rfl⟩

theorem Returned.of_eq {f f' : List Span} (e : f' = f) : Returned f f' := ⟨[], e⟩

theorem Returned.spansWf {f f' : List Span} (h : Returned f f') (wf : spansWf f) : spansWf f' := by
  obtain ⟨es, rfl⟩ := h
  exact spansWf_returnExtents wf es

theorem State.returned_dropRefs (s : State) (h : Handle) (n : Nat) :
    Returned s.freeSet (s.dropRefs h n).freeSet := by
  rcases s.dropRefs_cases h n with ⟨-, e⟩ | ⟨-, -, -, e⟩ | ⟨-, -, e⟩ <;> rw [e]
  · exact .refl _
  · exact ⟨_, rfl⟩
  · exact .refl _

theorem State.returned_removeHead (s : State) : Returned s.freeSet s.removeHead.freeSet := by
  unfold State.removeHead
  split
  · exact .refl _
  · exact State.returned_dropRefs { s with queue := _ } _ _

/-- Every change returns extents to the free set, or takes a commit's from it. -/
theorem Change.freeSet_cases (h : Change v o s o' t) : Returned s.freeSet t.freeSet ∨
    ∃ r n es, takeExtents r n s.freeSet = some (es, t.freeSet) := by
  cases h with
  | extentsTaken working full take => exact .inr ⟨_, _, _, take⟩
  | abandons => exact .inl ⟨_, rfl⟩
  | tears => exact .inl ⟨_, s.tear_freeSet⟩
  | rebinds old new =>
    exact .inl (State.returned_dropRefs (State.addRefs { s with queue := s.reboundQueue old new } new _) old _)
  | skips => exact .inl s.returned_removeHead
  | frees k => exact .inl ⟨_, rfl⟩
  | rests => exact .inl ⟨_, rfl⟩
  | clears => exact .inl ⟨_, rfl⟩
  | endsPress e resume =>
    cases hd : s.delivery with
    | none => exact .inl (by rw [State.endPress_none hd]; exact .refl _)
    | some d =>
      rw [State.endPress_some hd]
      show Returned s.freeSet (s.afterPress e).freeSet ∨ _
      unfold State.afterPress
      split
      · exact .inl s.returned_removeHead
      · exact .inl (.refl _)
  | endsView e resume =>
    cases hx : s.view with
    | none => exact .inl (by rw [State.endView_none hx]; exact .refl _)
    | some x => exact .inl (by rw [State.endView_some hx]; exact s.returned_dropRefs _ _)
  | dropsView =>
    cases hx : s.view with
    | none => exact .inl (by rw [State.dropView_none hx]; exact .refl _)
    | some x => exact .inl (by rw [State.dropView_eq hx]; exact s.returned_dropRefs _ _)
  | resumes => exact .inl (.refl _)
  | defers => exact .inl (.refl _)
  | _ => exact .inl (.of_eq (by simp))

theorem Change.freeSetWf (h : Change v o s o' t) (kept : s.FreeSetWf) : t.FreeSetWf := by
  rcases h.freeSet_cases with returned | ⟨r, n, es, take⟩
  · exact returned.spansWf kept
  · exact spansWf_takeExtents kept take

/-! ## The ports (R172 to R174, R183) -/

@[simp] theorem State.afterPress_compose (s : State) (e : Ending) : (s.afterPress e).compose = s.compose := by
  unfold State.afterPress; split <;> simp
@[simp] theorem State.afterPress_press (s : State) (e : Ending) : (s.afterPress e).press = s.press := by
  unfold State.afterPress; split <;> simp
@[simp] theorem State.afterPress_proof (s : State) (e : Ending) : (s.afterPress e).proof = s.proof := by
  unfold State.afterPress; split <;> simp
@[simp] theorem State.afterPress_encoder (s : State) (e : Ending) : (s.afterPress e).encoder = s.encoder := by
  unfold State.afterPress; split <;> simp

theorem PortRec.downQuiet_of_up {r : PortRec} (up : r.state ≠ .down) : r.DownQuiet := fun down => absurd down up

theorem PortRec.DownQuiet.send {r : PortRec} (h : r.DownQuiet) (f : Frame) : (r.send f).DownQuiet := by
  unfold PortRec.send
  split
  · exact h
  · next up => exact PortRec.downQuiet_of_up up

theorem PortRec.DownQuiet.moves {r r' : PortRec} (h : r.DownQuiet) (m : r.Moves r') : r'.DownQuiet := by
  cases m with
  | sends f => exact h.send f
  | flags => exact h
  | sent =>
    intro down
    have state : r.sentOne.state = r.state := by unfold PortRec.sentOne; split <;> rfl
    have quiet := h (state ▸ down)
    rw [PortRec.sentOne, quiet.1]
    exact quiet

theorem State.DownPortsQuiet.of_ports (h : s.DownPortsQuiet) (compose : t.compose = s.compose)
    (press : t.press = s.press) (proof : t.proof = s.proof) : t.DownPortsQuiet := by
  intro p
  have port : t.port p = s.port p := by
    cases p
    · exact compose
    · exact press
    · exact proof
  exact port ▸ h p

theorem State.DownPortsQuiet.setPort (h : s.DownPortsQuiet) (p : Port) {r : PortRec} (quiet : r.DownQuiet) :
    (s.setPort p r).DownPortsQuiet := by
  intro k
  by_cases e : k = p
  · subst e
    rwa [State.port_setPort]
  · rw [State.port_setPort_ne _ _ e]
    exact h k

theorem Change.downPortsQuiet (h : Change v o s o' t) (kept : s.DownPortsQuiet) : t.DownPortsQuiet := by
  cases h with
  | port p moves => exact kept.setPort p ((kept p).moves moves)
  | turns p st up => exact kept.setPort p (PortRec.downQuiet_of_up up)
  | takes p code up => exact kept.setPort p (PortRec.downQuiet_of_up up)
  | replies p => exact kept.setPort p ((kept p).send _)
  | loses p => exact kept.setPort p fun _ => ⟨rfl, rfl, rfl⟩
  | resumes => exact State.DownPortsQuiet.setPort (by exact kept) .compose (PortRec.downQuiet_of_up nofun)
  | seals => exact State.DownPortsQuiet.setPort (by exact kept) .compose (PortRec.downQuiet_of_up nofun)
  | abandons => exact State.DownPortsQuiet.setPort (by exact kept) .compose (PortRec.downQuiet_of_up nofun)
  | begins => exact State.DownPortsQuiet.setPort (by exact kept) .press (PortRec.downQuiet_of_up nofun)
  | views => exact State.DownPortsQuiet.setPort (by exact kept) .proof (PortRec.downQuiet_of_up nofun)
  | endsPress e resume =>
    cases hd : s.delivery with
    | none => rwa [State.endPress_none hd]
    | some d =>
      rw [State.endPress_some hd]
      exact (kept.setPort .press (r := (s.press.send (.endNotice e d.handle resume)).withState .idle)
        (PortRec.downQuiet_of_up nofun)).of_ports (by simp) rfl (by simp)
  | endsView e resume =>
    cases hx : s.view with
    | none => rwa [State.endView_none hx]
    | some x =>
      rw [State.endView_some hx]
      exact (kept.setPort .proof (r := (s.proof.send (.endNotice e x.handle resume)).withState .idle)
        (PortRec.downQuiet_of_up nofun)).of_ports (by simp) (by simp) rfl
  | clears => exact kept
  | defers => exact kept
  | _ => exact kept.of_ports (by simp) (by simp) (by simp)

/-! ### At most one reply (R174, R183) -/

/-- A port's replies, where `owing` says whether the event has still to answer its command. -/
structure PortRec.Accounts (owing : Prop) (r : PortRec) : Prop where
  owes : owing → r.outstanding.isSome ∧ r.replies = 0
  settled : ¬ owing → r.OneReply

/-- Every port's replies are in order but for the port `o`, which owes one; a deferred command owes one as well. -/
structure State.Accounts (o : Option Port) (s : State) : Prop where
  ports : ∀ p, (s.port p).Accounts (o = some p)
  deferred : ∀ w d, s.encoder = some w → w.deferred = some d →
    o ≠ some .compose ∧ s.compose.outstanding.isSome ∧ s.compose.replies = 0

theorem State.accounts_none (s : State) : s.Accounts none ↔ s.OneReplyEach :=
  ⟨fun h => ⟨fun p => (h.ports p).settled nofun, fun w d hw hd => (h.deferred w d hw hd).2⟩,
    fun h => ⟨fun p => ⟨nofun, fun _ => h.1 p⟩, fun w d hw hd => ⟨nofun, h.2 w d hw hd⟩⟩⟩

/-- A port whose command and whose replies are as in another state's. -/
def PortRec.AsBefore (r r' : PortRec) : Prop := r'.outstanding = r.outstanding ∧ r'.replies = r.replies

theorem PortRec.AsBefore.accounts {r r' : PortRec} (same : r.AsBefore r') {owing : Prop} (h : r.Accounts owing) :
    r'.Accounts owing := by
  obtain ⟨outstanding, replies⟩ := same
  refine ⟨fun o => ?_, fun o => ?_⟩
  · rw [outstanding, replies]
    exact h.owes o
  · unfold PortRec.OneReply
    rw [outstanding, replies]
    exact h.settled o

/-- The encoder's deferred reply, if it has one, is one it had. -/
def State.DefersAs (s t : State) : Prop :=
  ∀ w' d, t.encoder = some w' → w'.deferred = some d → ∃ w, s.encoder = some w ∧ w.deferred = some d

theorem State.Accounts.of_ports (h : s.Accounts o) (ports : ∀ p, (s.port p).AsBefore (t.port p))
    (deferred : s.DefersAs t) : t.Accounts o where
  ports p := (ports p).accounts (h.ports p)
  deferred w' d hw' hd := by
    obtain ⟨w, hw, hd⟩ := deferred w' d hw' hd
    obtain ⟨free, outstanding, replies⟩ := h.deferred w d hw hd
    have same := ports .compose
    exact ⟨free, same.1.symm ▸ outstanding, same.2.trans replies⟩

theorem PortRec.replies_send {r : PortRec} {f : Frame} (other : f.isReply = false) : (r.send f).replies = r.replies := by
  unfold PortRec.send PortRec.replies
  split
  · rfl
  · simp [other]

theorem PortRec.asBefore_send (r : PortRec) {f : Frame} (other : f.isReply = false) : r.AsBefore (r.send f) :=
  ⟨PortRec.send_outstanding .., PortRec.replies_send other⟩

theorem PortRec.asBefore_notice (r : PortRec) (e : Ending) (k : Handle) (n : Nat) :
    r.AsBefore ((r.send (.endNotice e k n)).withState .idle) := r.asBefore_send rfl

/-- A reply that leaves the list ends its command's outstanding status (R183). -/
theorem PortRec.Accounts.sent {r : PortRec} {owing : Prop} (h : r.Accounts owing) : r.sentOne.Accounts owing := by
  unfold PortRec.sentOne
  split
  · exact h
  · next f rest list =>
    have count : r.replies = (rest.countP (·.isReply)) + if f.isReply then 1 else 0 := by
      rw [PortRec.replies, list, List.countP_cons]
    refine ⟨fun o => ?_, fun o => ?_⟩
    · obtain ⟨outstanding, empty⟩ := h.owes o
      have other : f.isReply = false := by
        by_contra reply
        rw [if_pos (by simpa using reply)] at count
        omega
      simp only [other, Bool.false_eq_true, if_false] at count ⊢
      exact ⟨outstanding, by rw [PortRec.replies]; dsimp only; omega⟩
    · obtain ⟨one, idle⟩ := h.settled o
      unfold PortRec.OneReply
      rw [PortRec.replies]
      dsimp only
      by_cases reply : f.isReply = true
      · simp only [reply, if_true] at count ⊢
        exact ⟨by omega, fun _ => by omega⟩
      · simp only [reply, Bool.false_eq_true, if_false] at count ⊢
        exact ⟨by omega, fun e => by have := idle e; omega⟩

theorem State.Accounts.setPort (h : s.Accounts o) (p : Port) {r : PortRec}
    (port : r.Accounts (o' = some p)) (others : ∀ q, q ≠ p → (o = some q ↔ o' = some q))
    (deferred : ∀ w d, s.encoder = some w → w.deferred = some d → o' ≠ some .compose ∧
      (p = .compose → r.outstanding.isSome ∧ r.replies = 0)) : (s.setPort p r).Accounts o' where
  ports q := by
    by_cases e : q = p
    · subst e
      rwa [State.port_setPort]
    · rw [State.port_setPort_ne _ _ e, ← others q e]
      exact h.ports q
  deferred w d hw hd := by
    rw [State.setPort_encoder] at hw
    obtain ⟨free, compose⟩ := deferred w d hw hd
    refine ⟨free, ?_⟩
    by_cases e : p = .compose
    · subst e
      exact compose rfl
    · have same : (s.setPort p r).compose = s.compose := State.port_setPort_ne s r (Ne.symm e)
      rw [same]
      exact (h.deferred w d hw hd).2

theorem State.asBefore_setPort {p : Port} {r : PortRec} (same : (s.port p).AsBefore r) (q : Port) :
    (s.port q).AsBefore ((s.setPort p r).port q) := by
  by_cases e : q = p
  · subst e
    rwa [State.port_setPort]
  · rw [State.port_setPort_ne _ _ e]
    exact ⟨rfl, rfl⟩

/-- A change of the encoder that leaves its deferred reply, and the ports as they were. -/
theorem State.Accounts.of_encoder (h : s.Accounts o) {w w' : EncoderWork} (working : s.encoder = some w)
    (works : t.encoder = some w') (ports : ∀ p, t.port p = s.port p) (same : w'.deferred = w.deferred) : t.Accounts o :=
  h.of_ports (fun p => by rw [ports p]; exact ⟨rfl, rfl⟩) fun x d hx hd => by
    cases works.symm.trans hx
    exact ⟨w, working, same.symm.trans hd⟩

theorem Change.accounts (h : Change v o s o' t) (kept : s.Accounts o) : t.Accounts o' := by
  cases h with
  | port p moves =>
    cases moves with
    | sends f other =>
      exact kept.of_ports (State.asBefore_setPort (PortRec.asBefore_send _ other)) fun w d hw hd =>
        ⟨w, by simpa using hw, hd⟩
    | flags => exact kept.of_ports (State.asBefore_setPort ⟨rfl, rfl⟩) fun w d hw hd => ⟨w, by simpa using hw, hd⟩
    | sent =>
      refine kept.setPort p (kept.ports p).sent (fun _ _ => .rfl) fun w d hw hd => ?_
      obtain ⟨free, outstanding, empty⟩ := kept.deferred w d hw hd
      refine ⟨free, fun e => ?_⟩
      subst e
      have owes : s.compose.Accounts True := ⟨fun _ => ⟨outstanding, empty⟩, fun h => absurd trivial h⟩
      exact owes.sent.owes trivial
  | turns p => exact kept.of_ports (State.asBefore_setPort ⟨rfl, rfl⟩) fun w d hw hd => ⟨w, by simpa using hw, hd⟩
  | takes p code up idle =>
    have empty := ((kept.ports p).settled nofun).2 idle
    refine kept.setPort p ⟨fun _ => ⟨rfl, empty⟩, fun h => absurd rfl h⟩ (fun q hq => ?_) fun w d hw hd => ?_
    · simp [Ne.symm hq]
    · have other : p ≠ .compose := by
        rintro rfl
        have := (kept.deferred w d hw hd).2.1
        rw [show s.compose.outstanding = none from idle] at this
        cases this
      exact ⟨by simpa using other, fun e => absurd e other⟩
  | replies p code x l =>
    obtain ⟨outstanding, empty⟩ := (kept.ports p).owes rfl
    rw [State.reply_eq]
    refine kept.setPort p ⟨nofun, fun _ => ?_⟩ (fun q hq => ?_) fun w d hw hd => ⟨nofun, ?_⟩
    · unfold PortRec.OneReply
      rw [PortRec.send_outstanding]
      refine ⟨?_, fun e => by simp [e] at outstanding⟩
      unfold PortRec.send
      split
      · omega
      · simp [PortRec.replies, Frame.isReply] at empty ⊢
        exact empty
    · simp [Ne.symm hq]
    · rintro rfl
      exact absurd rfl (kept.deferred w d hw hd).1
  | loses p idle =>
    refine kept.setPort p ⟨nofun, fun _ => ⟨Nat.zero_le 1, fun _ => rfl⟩⟩ (fun _ _ => .rfl) fun w d hw hd => ⟨nofun, ?_⟩
    rintro rfl
    rw [show s.encoder = none from idle] at hw
    cases hw
  | @defers _ w d working =>
    obtain ⟨outstanding, empty⟩ := (kept.ports .compose).owes rfl
    refine ⟨fun p => ⟨nofun, fun _ => ?_⟩, fun w' d' _ _ => ⟨nofun, outstanding, empty⟩⟩
    by_cases e : p = .compose
    · subst e
      exact ⟨Nat.le_succ_of_le empty.le, fun _ => empty⟩
    · have port : (s.defer w d).port p = s.port p := by cases p <;> rfl
      rw [port]
      exact (kept.ports p).settled (by simpa using Ne.symm e)
  | undefers working deferred =>
    have owed := (kept.deferred _ _ working deferred).2
    refine ⟨fun p => ?_, fun w' d' hw' hd' => by cases hw'; cases hd'⟩
    by_cases e : p = .compose
    · subst e
      exact ⟨fun _ => owed, fun h => absurd rfl h⟩
    · have settled := (kept.ports p).settled nofun
      refine ⟨fun h => absurd (Option.some.inj h).symm e, fun _ => ?_⟩
      cases p <;> exact settled
  | line working => exact kept.of_encoder working rfl (fun p => by cases p <;> rfl) rfl
  | coded working => exact kept.of_encoder working rfl (fun p => by cases p <;> rfl) rfl
  | refused working => exact kept.of_encoder working rfl (fun p => by cases p <;> rfl) rfl
  | extentsTaken working => exact kept.of_encoder working rfl (fun p => by cases p <;> rfl) rfl
  | wrote working => exact kept.of_encoder working rfl (fun p => by cases p <;> rfl) rfl
  | committed working => exact kept.of_encoder working rfl (fun p => by cases p <;> rfl) rfl
  | resumes =>
    exact kept.of_ports (fun p => by cases p <;> exact ⟨rfl, rfl⟩) fun w d hw hd => by cases hw; cases hd
  | seals => exact kept.of_ports (fun p => by cases p <;> exact ⟨rfl, rfl⟩) fun w d hw hd => nomatch hw
  | abandons => exact kept.of_ports (fun p => by cases p <;> exact ⟨rfl, rfl⟩) fun w d hw hd => nomatch hw
  | tears =>
    refine kept.of_ports (fun p => by cases p <;> simp [PortRec.AsBefore]) fun w d hw hd => ?_
    rw [State.tear_encoder] at hw
    cases hw
  | begins => exact kept.of_ports (fun p => by cases p <;> exact ⟨rfl, rfl⟩) fun w d hw hd => ⟨w, hw, hd⟩
  | views => exact kept.of_ports (fun p => by cases p <;> exact ⟨rfl, rfl⟩) fun w d hw hd => ⟨w, hw, hd⟩
  | endsPress e resume =>
    cases hd : s.delivery with
    | none => rwa [State.endPress_none hd]
    | some d =>
      rw [State.endPress_some hd]
      refine kept.of_ports (fun p => ?_) fun w d hw hd => ⟨w, by simpa using hw, hd⟩
      cases p with
      | press => exact PortRec.asBefore_notice ..
      | compose => exact ⟨by simp, by simp⟩
      | proof => exact ⟨by simp, by simp⟩
  | endsView e resume =>
    cases hx : s.view with
    | none => rwa [State.endView_none hx]
    | some x =>
      rw [State.endView_some hx]
      refine kept.of_ports (fun p => ?_) fun w d hw hd => ⟨w, by simpa using hw, hd⟩
      cases p with
      | proof => exact PortRec.asBefore_notice ..
      | compose => exact ⟨by simp, by simp⟩
      | press => exact ⟨by simp, by simp⟩
  | clears => exact kept.of_ports (fun p => by cases p <;> exact ⟨rfl, rfl⟩) fun w d hw hd => ⟨w, hw, hd⟩
  | _ =>
    exact kept.of_ports (fun p => by cases p <;> simp [PortRec.AsBefore]) fun w d hw hd => ⟨w, by simpa using hw, hd⟩

/-! ## Every command -/

/-- The beginning of an event changes the scheduler, the last reading and the class alone. -/
theorem State.begun_eq (s : State) (i : Instr) : s.begun i = { s with
    sched := (s.begun i).sched, lastReading := (s.begun i).lastReading, thermal := (s.begun i).thermal } := by
  unfold State.begun
  split
  · rfl
  · split <;> rfl
  · rfl

theorem exec_keeps_queueBounded {i : Instr} (kept : s.QueueBounded) (h : exec i s = .next t) : t.QueueBounded :=
  exec_keeps (J := fun _ u => u.QueueBounded) h kept (fun _ _ => Nat.zero_le _) (fun change j => change.queueBounded j)
    (fun _ _ _ _ _ _ j => j) (by rw [State.begun_eq]; exact kept)

theorem exec_keeps_late {i : Instr} (kept : s.LateExcludesOutstanding) (h : exec i s = .next t) :
    t.LateExcludesOutstanding :=
  exec_keeps (J := fun _ u => u.PressOnTime ∧ u.ProofOnTime) h kept (fun _ _ => ⟨nofun, nofun⟩)
    (fun change j => ⟨change.pressOnTime_kept j.1, change.proofOnTime_kept j.2⟩)
    (fun _ _ _ _ _ _ j => j) (by rw [State.begun_eq]; exact kept)

theorem exec_keeps_storeWf {i : Instr} (kept : s.StoreWf) (h : exec i s = .next t) : t.StoreWf :=
  exec_keeps (J := fun _ u => u.StoreWf) h kept (fun _ _ => Memory.wf_reset) (fun change j => change.storeWf j)
    (fun _ _ _ _ _ _ j => j) (by rw [State.begun_eq]; exact kept)

theorem exec_keeps_freeSetWf {i : Instr} (kept : s.FreeSetWf) (h : exec i s = .next t) : t.FreeSetWf :=
  exec_keeps (J := fun _ u => u.FreeSetWf) h kept (fun _ _ => (by decide : spansWf [⟨384, 32767⟩]))
    (fun change j => change.freeSetWf j) (fun _ _ _ _ _ _ j => j) (by rw [State.begun_eq]; exact kept)

theorem exec_keeps_downPortsQuiet {i : Instr} (kept : s.DownPortsQuiet) (h : exec i s = .next t) : t.DownPortsQuiet :=
  exec_keeps (J := fun _ u => u.DownPortsQuiet) h kept (fun _ _ p _ => by cases p <;> exact ⟨rfl, rfl, rfl⟩)
    (fun change j => change.downPortsQuiet j)
    (fun _ _ _ _ _ _ j => State.DownPortsQuiet.setPort (by exact j) .compose (PortRec.downQuiet_of_up nofun))
    (by rw [State.begun_eq]; exact kept)

theorem exec_keeps_oneReplyEach {i : Instr} (kept : s.OneReplyEach) (h : exec i s = .next t) : t.OneReplyEach := by
  refine (State.accounts_none t).mp (exec_keeps (J := fun o u => u.Accounts o) h ((State.accounts_none s).mpr kept)
    (fun _ _ => (State.accounts_none _).mpr ⟨fun p => ?_, nofun⟩) (fun change j => change.accounts j)
    (fun _ _ _ _ _ _ j => ?_) (by rw [State.begun_eq]; exact (State.accounts_none _).mpr kept))
  · cases p <;> exact ⟨Nat.zero_le 1, fun _ => rfl⟩
  · exact j.of_ports (fun p => by cases p <;> exact ⟨rfl, rfl⟩) fun w d hw hd => by cases hw; cases hd

/-! ## The shapes of the pages (R1) -/

/-- A page opened with parameters in range has a shape in range. -/
theorem openedRecord_inRange {q : OpenParams} (good : q.InRange) : (openedRecord q).shape.InRange := by
  obtain ⟨planes, width, height, band, tolerances, size⟩ := good
  refine ⟨planes, width, height, ?_, fun x hx => ?_, size⟩
  · rcases band with e | e <;> simp [openedRecord, PageRecord.shape, e]
  · have : ∀ j, (if j < q.planes.toNat then toleranceNibble q.tolerances j else 0) ≤ 7 := fun j => by
      split
      · exact tolerances j ‹_›
      · exact Nat.zero_le 7
    simp only [openedRecord, PageRecord.shape, openTolerances, Vector.toList_mk, List.mem_cons, List.not_mem_nil,
      or_false] at hx
    rcases hx with rfl | rfl | rfl | rfl | rfl | rfl <;> exact this _

/-- The encoder's page is the one it had, or a TORN one resumed. -/
theorem Change.encoder_handle (h : Change v o s o' t) {w' : EncoderWork} (works : t.encoder = some w') :
    (∃ w, s.encoder = some w ∧ w.handle = w'.handle) ∨ (s.page w'.handle).state ≠ .free := by
  cases h with
  | defers d working | undefers working | line working | coded working | refused working | extentsTaken working
  | wrote working | committed working =>
    cases works
    exact .inl ⟨_, working, rfl⟩
  | resumes k ok =>
    cases works
    refine .inr ?_
    show (s.page k).state ≠ .free
    simp [(continueRefusal_none ok).1]
  | seals => cases works
  | abandons => cases works
  | tears =>
    rw [State.tear_encoder] at works
    cases works
  | endsPress e resume => exact .inl ⟨w', by simpa using works, rfl⟩
  | clears => exact .inl ⟨w', works, rfl⟩
  | _ => exact .inl ⟨w', by simpa using works, rfl⟩

theorem exec_keeps_shapesInRange {i : Instr} (directory : s.DirectoryKept) (kept : s.ShapesInRange)
    (h : exec i s = .next t) : t.ShapesInRange := by
  rcases exec_cases h with ⟨-, rfl⟩ | ⟨p, q, k, -, opened⟩ | ⟨-, chain⟩
  · exact fun k used => absurd (congrArg _ (State.page_reset k)) used
  · intro j used
    rw [opened.page] at used ⊢
    split at used
    · next e => rw [if_pos e]; exact openedRecord_inRange opened.good
    · next e => rw [if_neg e]; exact kept j used
  · have begun : ∀ k, (s.begun i).page k = s.page k := State.page_congr (s.begun_pages i)
    have found : (∀ k, (s.page k).Stays (t.page k)) ∧ ∀ w, t.encoder = some w → (s.page w.handle).state ≠ .free := by
      refine chain.keeps (J := fun _ u => (∀ k, (s.page k).Stays (u.page k)) ∧
        ∀ w, u.encoder = some w → (s.page w.handle).state ≠ .free) (fun change ⟨stays, works⟩ => ⟨fun k => ?_, ?_⟩)
        ⟨fun k => begun k ▸ .refl _, fun w hw => ?_⟩
      · rcases change.page_stays k with next | ⟨-, free, w, hw, rfl⟩
        · exact (stays k).trans next
        · exact absurd free (works w hw)
      · intro w' hw'
        rcases change.encoder_handle hw' with ⟨w, hw, e⟩ | used
        · exact e ▸ works w hw
        · exact (stays _ used).1
      · rw [State.begun_eq] at hw
        have filling := (directory.2.1 w.handle).mpr ⟨w, hw, rfl⟩
        simp [filling]
    intro k used
    obtain ⟨before, same⟩ := found.1 k used
    rw [same.shape]
    exact kept k before

end Sys2Proof.Machine

/-! # What every step keeps: the directory -/

namespace Sys2Proof.Machine

variable {v : Vector PageRecord 256} {o o' : Option Port} {s t : State}

/-! ## Which port and which channel carries which work -/

/-- The encoder works only while the Compose port is INBOUND. -/
def State.ComposeLinked (s : State) : Prop := s.encoder.isSome → s.compose.state = .inbound

/-- The press channel belongs to the delivery, which is of the head page, marked, and at the OUTBOUND port. -/
structure State.PressLinked (s : State) : Prop where
  channel : s.pressChannel.isSome → s.delivery.isSome
  delivery : ∀ d, s.delivery = some d → s.press.state = .outbound ∧ s.delivering = true ∧
    s.queue.head? = some d.handle ∧ ∀ c, s.pressChannel = some c → c.handle = d.handle

/-- The proof channel belongs to the view, which is at the OUTBOUND port. -/
structure State.ProofLinked (s : State) : Prop where
  channel : s.proofChannel.isSome → s.view.isSome
  view : ∀ x, s.view = some x → s.proof.state = .outbound ∧ ∀ c, s.proofChannel = some c → c.handle = x.handle

theorem PortRec.Moves.state {r r' : PortRec} (m : r.Moves r') : r'.state = r.state := by
  cases m with
  | sends => exact PortRec.send_state ..
  | flags => rfl
  | sent => unfold PortRec.sentOne; split <;> rfl

theorem State.setPort_states {p : Port} {r : PortRec} (same : r.state = (s.port p).state) (q : Port) :
    ((s.setPort p r).port q).state = (s.port q).state := by
  by_cases e : q = p
  · subst e
    rwa [State.port_setPort]
  · rw [State.port_setPort_ne _ _ e]

/-- A port that turns to IDLE or RESTING carried no work. -/
theorem State.turned_state {p q : Port} {st : PortState} (quiet : (s.port p).state ≠ .inbound ∧
    (s.port p).state ≠ .outbound ∨ s.idleAt p) (busy : (s.port q).state = .inbound ∨ (s.port q).state = .outbound)
    (working : ¬ s.idleAt q) : ((s.setPortState p st).port q).state = (s.port q).state := by
  by_cases e : q = p
  · subst e
    tauto
  · rw [State.setPortState, State.port_updatePort_ne _ _ e]

@[simp] theorem PressChannel.begin_handle (k : Handle) (p : Shape) (band : Nat) :
    (PressChannel.begin k p band).handle = k := by simp [PressChannel.begin, PressChannel.assignAll]
@[simp] theorem PressChannel.begin_shape (k : Handle) (p : Shape) (band : Nat) :
    (PressChannel.begin k p band).shape = p := by simp [PressChannel.begin, PressChannel.assignAll]

theorem Change.composeLinked (h : Change v o s o' t) (kept : s.ComposeLinked) : t.ComposeLinked := by
  unfold State.ComposeLinked at *
  cases h with
  | port p moves =>
    intro works
    rw [State.setPort_encoder] at works
    exact (State.setPort_states moves.state .compose).trans (kept works)
  | takes p =>
    intro works
    rw [State.updatePort_encoder] at works
    exact (State.setPort_states (by rfl) .compose).trans (kept works)
  | replies p code x l =>
    intro works
    rw [State.reply_encoder] at works
    exact (State.setPort_states (PortRec.send_state ..) .compose).trans (kept works)
  | turns p st up quiet =>
    intro works
    rw [State.setPortState_encoder] at works
    have inbound := kept works
    have working : ¬ s.idleAt .compose := fun idle => by simp [show s.encoder = none from idle] at works
    exact (State.turned_state (q := .compose) quiet (.inl inbound) working).trans inbound
  | loses p idle =>
    intro works
    rw [State.updatePort_encoder] at works
    have other : Port.compose ≠ p := by
      rintro rfl
      simp [show s.encoder = none from idle] at works
    exact (congrArg _ (State.port_updatePort_ne s _ other)).trans (kept works)
  | defers d working | undefers working | line working | coded working | refused working | extentsTaken working
  | wrote working | committed working => exact fun _ => kept (by simp [working])
  | resumes => exact fun _ => rfl
  | seals => exact nofun
  | abandons => exact nofun
  | tears =>
    rw [State.tear_encoder]
    exact nofun
  | clears => exact kept
  | _ => simpa using kept

theorem Change.pressLinked (h : Change v o s o' t) (kept : s.PressLinked) : t.PressLinked := by
  obtain ⟨active, delivery⟩ := kept
  cases h with
  | port p moves =>
    refine ⟨by simpa using active, fun d hd => ?_⟩
    rw [State.setPort_delivery] at hd
    obtain ⟨outbound, marked, head, channel⟩ := delivery d hd
    exact ⟨(State.setPort_states moves.state .press).trans outbound, by simpa using ⟨marked, head, channel⟩⟩
  | takes p =>
    refine ⟨by simpa using active, fun d hd => ?_⟩
    rw [State.updatePort_delivery] at hd
    obtain ⟨outbound, marked, head, channel⟩ := delivery d hd
    exact ⟨(State.setPort_states (by rfl) .press).trans outbound, by simpa using ⟨marked, head, channel⟩⟩
  | replies p code x l =>
    refine ⟨by simpa using active, fun d hd => ?_⟩
    rw [State.reply_delivery] at hd
    obtain ⟨outbound, marked, head, channel⟩ := delivery d hd
    exact ⟨(State.setPort_states (PortRec.send_state ..) .press).trans outbound, by simpa using ⟨marked, head, channel⟩⟩
  | turns p st up quiet =>
    refine ⟨by simpa using active, fun d hd => ?_⟩
    rw [State.setPortState_delivery] at hd
    obtain ⟨outbound, marked, head, channel⟩ := delivery d hd
    have working : ¬ s.idleAt .press := fun idle => by cases (show s.delivery = none from idle).symm.trans hd
    exact ⟨(State.turned_state (q := .press) quiet (.inr outbound) working).trans outbound, by simpa using ⟨marked, head, channel⟩⟩
  | loses p idle =>
    refine ⟨by simpa using active, fun d hd => ?_⟩
    rw [State.updatePort_delivery] at hd
    obtain ⟨outbound, marked, head, channel⟩ := delivery d hd
    have other : Port.press ≠ p := by
      rintro rfl
      cases (show s.delivery = none from idle).symm.trans hd
    exact ⟨(congrArg _ (State.port_updatePort_ne s _ other)).trans outbound, by simpa using ⟨marked, head, channel⟩⟩
  | enqueues k n =>
    refine ⟨by simpa using active, fun d hd => ?_⟩
    obtain ⟨outbound, marked, head, channel⟩ := delivery d hd
    refine ⟨outbound, marked, ?_, channel⟩
    cases hq : s.queue with
    | nil => simp [hq] at head
    | cons a q => simpa [hq] using head
  | rebinds old new =>
    refine ⟨by simpa using active, fun d hd => ?_⟩
    simp only [State.dropRefs_delivery, State.addRefs_delivery] at hd
    obtain ⟨outbound, marked, head, channel⟩ := delivery d hd
    refine ⟨by simpa using outbound, by simpa using marked, ?_, by simpa using channel⟩
    simp only [State.dropRefs_queue, State.addRefs_queue, State.reboundQueue, marked, if_true]
    cases hq : s.queue with
    | nil => simp [hq] at head
    | cons a q => simpa [hq] using head
  | skips idle =>
    have none : s.delivery = none := by
      cases hd : s.delivery with
      | none => rfl
      | some d => simp [(delivery d hd).1] at idle
    refine ⟨by simpa using active, fun d hd => ?_⟩
    simp [none] at hd
  | begins k a b c w head =>
    refine ⟨fun _ => rfl, fun d hd => ?_⟩
    cases hd
    exact ⟨rfl, rfl, head, fun c hc => by cases hc; exact PressChannel.begin_handle ..⟩
  | delivery d' running handle =>
    refine ⟨fun _ => rfl, fun d hd => ?_⟩
    cases hd
    rw [handle]
    exact delivery _ running
  | channel c' works handle =>
    refine ⟨fun _ => active (by simp [works]), fun d hd => ?_⟩
    obtain ⟨outbound, marked, head, channel⟩ := delivery d hd
    exact ⟨outbound, marked, head, fun c hc => by cases hc; exact handle.trans (channel _ works)⟩
  | endsPress e resume =>
    cases hd : s.delivery with
    | none =>
      rw [State.endPress_none hd]
      exact ⟨active, delivery⟩
    | some d =>
      rw [State.endPress_some hd]
      exact ⟨nofun, nofun⟩
  | dropsPress => exact ⟨nofun, nofun⟩
  | clears idle channel => exact ⟨fun h => by simp [State.resetDirectory, channel] at h, fun d hd => by
      simp [State.resetDirectory, idle] at hd⟩
  | resumes => exact ⟨active, delivery⟩
  | defers => exact ⟨active, delivery⟩
  | _ => exact ⟨by simpa using active, by simpa using delivery⟩

theorem Change.proofLinked (h : Change v o s o' t) (kept : s.ProofLinked) : t.ProofLinked := by
  obtain ⟨active, view⟩ := kept
  cases h with
  | port p moves =>
    refine ⟨by simpa using active, fun x hx => ?_⟩
    rw [State.setPort_view] at hx
    obtain ⟨outbound, channel⟩ := view x hx
    exact ⟨(State.setPort_states moves.state .proof).trans outbound, by simpa using channel⟩
  | takes p =>
    refine ⟨by simpa using active, fun x hx => ?_⟩
    rw [State.updatePort_view] at hx
    obtain ⟨outbound, channel⟩ := view x hx
    exact ⟨(State.setPort_states (by rfl) .proof).trans outbound, by simpa using channel⟩
  | replies p code x l =>
    refine ⟨by simpa using active, fun x hx => ?_⟩
    rw [State.reply_view] at hx
    obtain ⟨outbound, channel⟩ := view x hx
    exact ⟨(State.setPort_states (PortRec.send_state ..) .proof).trans outbound, by simpa using channel⟩
  | turns p st up quiet =>
    refine ⟨by simpa using active, fun x hx => ?_⟩
    rw [State.setPortState_view] at hx
    obtain ⟨outbound, channel⟩ := view x hx
    have working : ¬ s.idleAt .proof := fun idle => by cases (show s.view = none from idle).symm.trans hx
    exact ⟨(State.turned_state (q := .proof) quiet (.inr outbound) working).trans outbound, by simpa using channel⟩
  | loses p idle =>
    refine ⟨by simpa using active, fun x hx => ?_⟩
    rw [State.updatePort_view] at hx
    obtain ⟨outbound, channel⟩ := view x hx
    have other : Port.proof ≠ p := by
      rintro rfl
      cases (show s.view = none from idle).symm.trans hx
    exact ⟨(congrArg _ (State.port_updatePort_ne s _ other)).trans outbound, by simpa using channel⟩
  | views q =>
    refine ⟨fun _ => rfl, fun x hx => ?_⟩
    cases hx
    exact ⟨rfl, fun c hc => by cases hc; rfl⟩
  | view x' running handle =>
    refine ⟨fun _ => rfl, fun x hx => ?_⟩
    cases hx
    rw [handle]
    exact view _ running
  | proofChannel c' works handle =>
    refine ⟨fun _ => active (by simp [works]), fun x hx => ?_⟩
    obtain ⟨outbound, channel⟩ := view x hx
    exact ⟨outbound, fun c hc => by cases hc; exact handle.trans (channel _ works)⟩
  | endsView e resume =>
    cases hx : s.view with
    | none =>
      rw [State.endView_none hx]
      exact ⟨active, view⟩
    | some x =>
      rw [State.endView_some hx]
      exact ⟨nofun, nofun⟩
  | dropsView =>
    cases hx : s.view with
    | none =>
      rw [State.dropView_none hx]
      exact ⟨nofun, fun x hx' => by cases hx.symm.trans hx'⟩
    | some x =>
      rw [State.dropView_eq hx]
      exact ⟨nofun, nofun⟩
  | clears => exact ⟨nofun, nofun⟩
  | resumes => exact ⟨active, view⟩
  | defers => exact ⟨active, view⟩
  | begins => exact ⟨active, view⟩
  | _ => exact ⟨by simpa using active, by simpa using view⟩

end Sys2Proof.Machine

/-! # The directory's invariants, record by record -/

namespace Sys2Proof.Machine

variable {v : Vector PageRecord 256} {o o' : Option Port} {s t : State}

/-- The encoder works on the page of this handle. -/
def State.WorksOn (s : State) (k : Handle) : Prop := ∃ w, s.encoder = some w ∧ w.handle = k

/-- A record's invariants: `works` says whether the encoder works on it, `queued` and `viewed` how many queue entries
and views name it, and `owed` how many more references it has within an event. -/
structure PageRecord.KeptAs (r : PageRecord) (works : Prop) (queued viewed owed : Nat) : Prop where
  state : r.StateKept
  bare : r.FillingBare
  marks : r.MarksKept
  committed : r.CommittedKept
  filling : r.state = .filling ↔ works
  counted : r.references = queued + viewed + owed
  queueable : 0 < queued → r.state = .sealed ∨ r.state = .damaged
  readable : 0 < viewed → r.state = .sealed ∨ r.state = .damaged ∨ r.state = .torn

/-- The directory's invariants but for the links to the deliveries, with `owed` references more than the queue and the
view account for. -/
structure State.RecordsKept (s : State) (owed : Handle → Nat) : Prop where
  records : ∀ k, (s.page k).KeptAs (s.WorksOn k) (s.queue.count k) (s.viewRefs k) (owed k)
  expects : ∀ w, s.encoder = some w → w.Expects (s.page w.handle)
  free : s.freeRecords = s.pages.toList.countP fun r => r.state == .free

/-- No reference is owed. -/
def allCounted : Handle → Nat := fun _ => 0

/-- `n` references on one page are owed. -/
def owedOn (h : Handle) (n : Nat) : Handle → Nat := fun k => if k = h then n else 0

theorem State.viewRefs_of_view {x : ViewRecord} (hx : s.view = some x) (k : Handle) :
    s.viewRefs k = if k = x.handle then 1 else 0 := by
  simp only [State.viewRefs, hx, Option.any_some, beq_iff_eq, eq_comm (a := x.handle)]

theorem State.viewRefs_of_none (hx : s.view = none) (k : Handle) : s.viewRefs k = 0 := by
  simp [State.viewRefs, hx]

theorem State.viewRefs_pos (k : Handle) : 0 < s.viewRefs k ↔ ∃ x, s.view = some x ∧ x.handle = k := by
  cases hx : s.view with
  | none => simp [State.viewRefs_of_none hx]
  | some x =>
    rw [State.viewRefs_of_view hx]
    split
    · next e => simp [e]
    · next e => simp [Ne.symm e]

theorem State.directoryKept_iff : s.DirectoryKept ↔ s.RecordsKept allCounted ∧
    (∀ d, s.delivery = some d → s.queue.head? = some d.handle) ∧
    (∀ d c, s.delivery = some d → s.pressChannel = some c → c.handle = d.handle) ∧
    (∀ x c, s.view = some x → s.proofChannel = some c → c.handle = x.handle) := by
  constructor
  · rintro ⟨each, filling, expects, counted, queued, viewed, head, press, proof, free⟩
    refine ⟨⟨fun k => ⟨(each k).1, (each k).2.1, (each k).2.2.1, (each k).2.2.2, filling k, counted k, fun pos => ?_,
      fun pos => ?_⟩, expects, free⟩, head, press, proof⟩
    · exact queued k (List.count_pos_iff.mp pos)
    · obtain ⟨x, hx, rfl⟩ := (State.viewRefs_pos k).mp pos
      exact viewed x hx
  · rintro ⟨⟨records, expects, free⟩, head, press, proof⟩
    exact ⟨fun k => ⟨(records k).state, (records k).bare, (records k).marks, (records k).committed⟩,
      fun k => (records k).filling, expects, fun k => (records k).counted,
      fun k hk => (records k).queueable (List.count_pos_iff.mpr hk),
      fun x hx => (records _).readable ((State.viewRefs_pos _).mpr ⟨x, hx, rfl⟩), head, press, proof, free⟩

/-! ## One record changed, or none -/

theorem State.countP_setPage (s : State) (k : Handle) (r : PageRecord) (p : PageRecord → Bool) :
    (s.setPage k r).pages.toList.countP p + (if p (s.page k) then 1 else 0) =
      s.pages.toList.countP p + if p r then 1 else 0 := by
  have inside : k.toNat < s.pages.toList.length := by simpa using k.isLt
  have found : s.pages.toList[k.toNat] = s.page k := by simp [State.page]
  have some : (if p (s.page k) then 1 else 0) ≤ s.pages.toList.countP p := by
    split
    · next yes => exact List.countP_pos_iff.mpr ⟨s.page k, found ▸ List.getElem_mem inside, yes⟩
    · exact Nat.zero_le _
  rw [State.setPage, Vector.toList_set, List.countP_set inside, found]
  omega

theorem EncoderWork.Expects.congr {w w' : EncoderWork} {r r' : PageRecord} (h : w.Expects r)
    (expected : w'.expected = w.expected) (complete : w'.phase = .complete ↔ w.phase = .complete)
    (committed : r'.committed = r.committed) (shape : r'.shape = r.shape) : w'.Expects r' := by
  unfold EncoderWork.Expects PageRecord.expectedPosition PageRecord.allCommitted at *
  rw [expected, complete, committed, shape]
  exact h

/-- Nothing of the directory changes. -/
theorem State.RecordsKept.congr {owed : Handle → Nat} (kept : s.RecordsKept owed) (pages : t.pages = s.pages)
    (free : t.freeRecords = s.freeRecords) (queue : t.queue = s.queue) (view : ∀ k, t.viewRefs k = s.viewRefs k)
    (encoder : t.encoder = s.encoder) : t.RecordsKept owed where
  records k := by
    rw [State.page_congr pages, queue, view, State.WorksOn, encoder]
    exact kept.records k
  expects w hw := by
    rw [State.page_congr pages]
    exact kept.expects w (encoder ▸ hw)
  free := by rw [pages, free]; exact kept.free

/-- The encoder's work changes, on the same position of the same page. -/
theorem State.RecordsKept.of_encoder {owed : Handle → Nat} (kept : s.RecordsKept owed) {w w' : EncoderWork}
    (working : s.encoder = some w) (handle : w'.handle = w.handle) (expected : w'.expected = w.expected)
    (complete : w'.phase = .complete ↔ w.phase = .complete) :
    State.RecordsKept { s with encoder := some w' } owed where
  records k := by
    have works : State.WorksOn { s with encoder := some w' } k ↔ s.WorksOn k := by
      simp [State.WorksOn, working, handle]
    have same := kept.records k
    rw [← works] at same
    exact same
  expects x hx := by
    cases hx
    rw [handle]
    exact (kept.expects w working).congr expected complete rfl rfl
  free := kept.free

/-- One record changes. -/
theorem State.RecordsKept.of_page {owed owed' : Handle → Nat} (kept : s.RecordsKept owed) (k : Handle) {r : PageRecord}
    (pages : t.pages = (s.setPage k r).pages)
    (others : ∀ j, j ≠ k → (t.WorksOn j ↔ s.WorksOn j) ∧ t.queue.count j = s.queue.count j ∧
      t.viewRefs j = s.viewRefs j ∧ owed' j = owed j)
    (record : r.KeptAs (t.WorksOn k) (t.queue.count k) (t.viewRefs k) (owed' k))
    (expects : ∀ w, t.encoder = some w → w.Expects (t.page w.handle))
    (free : t.freeRecords + (if (s.page k).state = .free then 1 else 0) =
      s.freeRecords + if r.state = .free then 1 else 0) : t.RecordsKept owed' where
  records j := by
    rw [State.page_congr pages, State.page_setPage_if]
    split
    · next e => exact e ▸ record
    · next e =>
      obtain ⟨works, count, view, extra⟩ := others j e
      rw [works, count, view, extra]
      exact kept.records j
  expects := expects
  free := by
    have count := s.countP_setPage k r fun r => r.state == .free
    have before := kept.free
    simp only [beq_iff_eq] at count
    rw [pages]
    omega

/-- The encoder's expectation, where a record keeps its committed count and its shape. -/
theorem State.RecordsKept.expects_page {owed : Handle → Nat} (kept : s.RecordsKept owed) {k : Handle} {r : PageRecord}
    (committed : r.committed = (s.page k).committed) (shape : r.shape = (s.page k).shape) (w : EncoderWork)
    (hw : s.encoder = some w) : w.Expects ((s.setPage k r).page w.handle) := by
  rw [State.page_setPage_if]
  split
  · next e =>
    refine (kept.expects w hw).congr rfl .rfl ?_ ?_
    · rw [committed, e]
    · rw [shape, e]
  · exact kept.expects w hw

/-- The encoder's expectation, where the changed record is of another page. -/
theorem State.RecordsKept.expects_other {owed : Handle → Nat} (kept : s.RecordsKept owed) {k : Handle}
    (still : (s.page k).state ≠ .filling) (r : PageRecord) (w : EncoderWork) (hw : s.encoder = some w) :
    w.Expects ((s.setPage k r).page w.handle) := by
  rw [State.page_setPage_ne]
  · exact kept.expects w hw
  · rintro rfl
    exact still ((kept.records w.handle).filling.mpr ⟨w, hw, rfl⟩)

/-- One record changes that keeps its committed count and its shape; the encoder, the queue and the view stay. -/
theorem State.RecordsKept.of_record {owed owed' : Handle → Nat} (kept : s.RecordsKept owed) (k : Handle) {r : PageRecord}
    (pages : t.pages = (s.setPage k r).pages) (queue : ∀ j, j ≠ k → t.queue.count j = s.queue.count j)
    (view : ∀ j, j ≠ k → t.viewRefs j = s.viewRefs j) (others : ∀ j, j ≠ k → owed' j = owed j)
    (encoder : t.encoder = s.encoder)
    (record : r.KeptAs (s.WorksOn k) (t.queue.count k) (t.viewRefs k) (owed' k))
    (committed : r.committed = (s.page k).committed) (shape : r.shape = (s.page k).shape)
    (state : r.state = .free ↔ (s.page k).state = .free) (free : t.freeRecords = s.freeRecords) :
    t.RecordsKept owed' := by
  have works (j : Handle) : t.WorksOn j ↔ s.WorksOn j := by rw [State.WorksOn, encoder]; rfl
  refine kept.of_page k pages (fun j hj => ⟨works j, queue j hj, view j hj, others j hj⟩) ?_ (fun w hw => ?_) ?_
  · rw [works]
    exact record
  · rw [State.page_congr pages]
    exact kept.expects_page committed shape w (encoder ▸ hw)
  · simp only [free, state]

theorem PageRecord.free_keptAs {works : Prop} (idle : ¬ works) : PageRecord.free.KeptAs works 0 0 0 where
  state := ⟨fun _ => rfl, nofun⟩
  bare := nofun
  marks := ⟨nofun, nofun⟩
  committed := ⟨Nat.zero_le _, nofun⟩
  filling := ⟨nofun, fun h => absurd h idle⟩
  counted := rfl
  queueable := fun h => absurd h (Nat.lt_irrefl 0)
  readable := fun h => absurd h (Nat.lt_irrefl 0)

/-- A page that nothing names is freed (R19). -/
theorem State.RecordsKept.freed {owed owed' : Handle → Nat} (kept : s.RecordsKept owed) (k : Handle)
    (pages : t.pages = (s.setPage k .free).pages) (queue : t.queue = s.queue) (view : ∀ j, t.viewRefs j = s.viewRefs j)
    (others : ∀ j, j ≠ k → owed' j = owed j) (encoder : t.encoder = s.encoder)
    (free : t.freeRecords = s.freeRecords + 1) (used : (s.page k).state ≠ .free) (still : (s.page k).state ≠ .filling)
    (unnamed : s.queue.count k = 0 ∧ s.viewRefs k = 0 ∧ owed' k = 0) : t.RecordsKept owed' := by
  have works (j : Handle) : t.WorksOn j ↔ s.WorksOn j := by rw [State.WorksOn, encoder]; rfl
  obtain ⟨unqueued, unviewed, settled⟩ := unnamed
  refine kept.of_page k pages (fun j hj => ⟨works j, by rw [queue], view j, others j hj⟩) ?_ (fun w hw => ?_) ?_
  · rw [queue, view, unqueued, unviewed, settled]
    exact PageRecord.free_keptAs fun h => still ((kept.records k).filling.mpr ((works k).mp h))
  · rw [State.page_congr pages]
    exact kept.expects_other still _ w (encoder ▸ hw)
  · rw [if_neg used, free]
    rfl

/-- References that end are owed no longer (R17, R19). -/
theorem State.RecordsKept.dropRefs {h : Handle} {n : Nat} (kept : s.RecordsKept (owedOn h n)) :
    (s.dropRefs h n).RecordsKept allCounted := by
  have others : ∀ j, j ≠ h → allCounted j = owedOn h n j := fun j hj => (if_neg hj).symm
  have same : owedOn h n h = n := if_pos rfl
  have record := kept.records h
  rw [same] at record
  have view (u : State) (e : u.view = s.view) (k : Handle) : u.viewRefs k = s.viewRefs k := by
    rw [State.viewRefs, e, State.viewRefs]
  rcases s.dropRefs_cases h n with ⟨zero, e⟩ | ⟨-, pending, none, e⟩ | ⟨some, left, e⟩ <;> rw [e]
  · have : owedOn h n = allCounted := funext fun k => by simp [owedOn, allCounted, zero]
    rwa [this] at kept
  · have counted := record.counted
    have still : (s.page h).state ≠ .filling := fun filling => by
      simp [(record.bare filling).2.2.1] at pending
    have used : (s.page h).state ≠ .free := fun free => by
      rw [record.state.1 free] at pending
      cases pending
    exact kept.freed h rfl rfl (view _ rfl) others rfl rfl used still ⟨by omega, by omega, rfl⟩
  · have counted := record.counted
    refine kept.of_record h (r := (s.page h).dropRefs n) rfl (fun _ _ => rfl) (fun j _ => view _ rfl j) others rfl ?_ rfl rfl
      .rfl rfl
    have references : ((s.page h).dropRefs n).references = s.queue.count h + s.viewRefs h := by
      show (s.page h).references - n = _
      omega
    refine ⟨⟨fun free => ?_, record.state.2⟩, fun filling => ?_, ⟨record.marks.1, fun pending => ?_⟩, record.committed,
      record.filling, references, record.queueable, record.readable⟩
    · have zero : (s.page h).references = 0 := by rw [record.state.1 free]; rfl
      have same : (s.page h).dropRefs n = s.page h := by
        rw [PageRecord.dropRefs, zero, Nat.zero_sub, ← zero]
      rw [same]
      exact record.state.1 free
    · obtain ⟨zero, bare⟩ := record.bare filling
      exact ⟨by show (s.page h).references - n = 0; omega, bare⟩
    · have : ((s.page h).dropRefs n).references ≠ 0 := fun zero => left ⟨pending, zero⟩
      omega

end Sys2Proof.Machine

/-! # Every change keeps the directory's invariants -/

namespace Sys2Proof.Machine

variable {v : Vector PageRecord 256} {o o' : Option Port} {s t : State} {owed : Handle → Nat}

/-! ## What happens to one record -/

namespace PageRecord.KeptAs

variable {r : PageRecord} {works : Prop} {q x n : Nat}

/-- The list of extents of a page that has one changes. -/
theorem extents (kept : r.KeptAs works q x n) (used : r.state ≠ .free) (found : r.state ≠ .lost) (es : List Nat) :
    PageRecord.KeptAs { r with extents := es } works q x n :=
  ⟨⟨fun free => absurd free used, fun lost => absurd lost found⟩, kept.bare, kept.marks, kept.committed, kept.filling,
    kept.counted, kept.queueable, kept.readable⟩

/-- One more position of the FILLING page is committed. -/
theorem commitOne (kept : r.KeptAs works q x n) (filling : r.state = .filling) (more : r.committed ≠ r.shape.positions)
    (length : Nat) : (r.commitOne length).KeptAs works q x n where
  state := ⟨fun free => by simp [PageRecord.commitOne, filling] at free,
    fun lost => by simp [PageRecord.commitOne, filling] at lost⟩
  bare := kept.bare
  marks := kept.marks
  committed := ⟨Nat.lt_of_le_of_ne kept.committed.1 more, fun sealed => by
    simp [PageRecord.commitOne, filling] at sealed⟩
  filling := kept.filling
  counted := kept.counted
  queueable := kept.queueable
  readable := kept.readable

/-- The FILLING page leaves the encoder, SEALED with all committed, or TORN. -/
theorem closed (kept : r.KeptAs works q x n) (filling : r.state = .filling) {st : PageState} {es : List Nat}
    (closes : st = .torn ∨ st = .sealed ∧ r.committed = r.shape.positions) :
    PageRecord.KeptAs { r with state := st, extents := es } False q x n := by
  have none : q = 0 ∧ x = 0 := by
    have counted := kept.counted
    have := (kept.bare filling).1
    omega
  refine ⟨⟨fun free => ?_, fun lost => ?_⟩, fun fills => ?_, kept.marks, ⟨kept.committed.1, fun sealed => ?_⟩,
    ⟨fun fills => ?_, nofun⟩, kept.counted, by omega, by omega⟩
  · rcases closes with e | ⟨e, -⟩ <;> cases e.symm.trans free
  · rcases closes with e | ⟨e, -⟩ <;> cases e.symm.trans lost
  · rcases closes with e | ⟨e, -⟩ <;> cases e.symm.trans fills
  · rcases closes with e | ⟨-, all⟩
    · cases e.symm.trans sealed
    · exact all
  · rcases closes with e | ⟨e, -⟩ <;> cases e.symm.trans fills

/-- A bare TORN page goes to the encoder again. -/
theorem resumed (kept : r.KeptAs works q x n) (bare : r.holdReason = none ∧ r.releasePending = false ∧
    r.references = 0 ∧ r.firstDamaged = none) : PageRecord.KeptAs { r with state := .filling } True q x n := by
  have counted := kept.counted
  obtain ⟨lifted, kept', unnamed, sound⟩ := bare
  exact ⟨⟨nofun, nofun⟩, fun _ => ⟨unnamed, lifted, kept', sound⟩, kept.marks, ⟨kept.committed.1, nofun⟩,
    ⟨fun _ => trivial, fun _ => rfl⟩, kept.counted, by omega, by omega⟩

/-- References begin on a page that is readable and not release pending. -/
theorem addRefs (kept : r.KeptAs works q x n) {q' x' n' m : Nat} (pending : r.releasePending = false)
    (readable : r.state = .sealed ∨ r.state = .damaged ∨ r.state = .torn)
    (queueable : 0 < q' → r.state = .sealed ∨ r.state = .damaged) (count : q' + x' + n' = q + x + n + m) :
    PageRecord.KeptAs { r with references := r.references + m } works q' x' n' where
  state := ⟨fun free => (by rcases readable with e | e | e <;> cases e.symm.trans free), kept.state.2⟩
  bare := fun filling => by rcases readable with e | e | e <;> cases e.symm.trans filling
  marks := ⟨fun _ => pending, fun h => absurd (pending.symm.trans h) nofun⟩
  committed := kept.committed
  filling := kept.filling
  counted := by rw [kept.counted, count]
  queueable := queueable
  readable := fun _ => readable

/-- Damage is found on a readable page. -/
theorem markDamaged (kept : r.KeptAs works q x n)
    (readable : r.state = .sealed ∨ r.state = .damaged ∨ r.state = .torn) (band : Nat) :
    (r.markDamaged band).KeptAs works q x n := by
  have state : (r.markDamaged band).state = if r.state = .sealed then .damaged else r.state := rfl
  have still : (r.markDamaged band).state ≠ .free ∧ (r.markDamaged band).state ≠ .lost ∧
      (r.markDamaged band).state ≠ .filling ∧ (r.markDamaged band).state ≠ .sealed := by
    rcases readable with e | e | e <;> simp [state, e]
  obtain ⟨free, lost, filling, sealed⟩ := still
  have before : r.state ≠ .filling := by rcases readable with e | e | e <;> simp [e]
  refine ⟨⟨fun h => absurd h free, fun h => absurd h lost⟩, fun h => absurd h filling, kept.marks,
    ⟨kept.committed.1, fun h => absurd h sealed⟩, ⟨fun h => absurd h filling, fun h => absurd (kept.filling.mpr h) before⟩,
    kept.counted, fun h => ?_, fun h => ?_⟩
  · rcases kept.queueable h with e | e <;> simp [state, e]
  · rcases readable with e | e | e <;> simp [state, e]

/-- A page is held that is not FREE, not FILLING and not release pending; or its hold ends. -/
theorem setHold (kept : r.KeptAs works q x n) {reason : Option Byte}
    (ok : reason = none ∨ r.state ≠ .free ∧ r.state ≠ .filling ∧ r.releasePending = false) :
    PageRecord.KeptAs { r with holdReason := reason } works q x n := by
  refine ⟨⟨fun free => ?_, kept.state.2⟩, fun filling => ?_, ⟨fun held => ?_, kept.marks.2⟩, kept.committed, kept.filling,
    kept.counted, kept.queueable, kept.readable⟩
  · rcases ok with rfl | ⟨used, -⟩
    · have same := kept.state.1 free
      rw [same]
      rfl
    · exact absurd free used
  · rcases ok with rfl | ⟨-, still, -⟩
    · obtain ⟨unnamed, -, pending, sound⟩ := kept.bare filling
      exact ⟨unnamed, rfl, pending, sound⟩
    · exact absurd filling still
  · rcases ok with rfl | ⟨-, -, pending⟩
    · cases held
    · exact pending

theorem releaseClass_pending (h : r.releaseClass = .pending) :
    r.state ≠ .free ∧ r.state ≠ .filling ∧ r.holdReason = none ∧ 0 < r.references := by
  unfold PageRecord.releaseClass at h
  split_ifs at h with free filling held counted
  exact ⟨free, filling, by simpa using held, counted⟩

theorem releaseClass_freed (h : r.releaseClass = .freed) :
    r.state ≠ .free ∧ r.state ≠ .filling ∧ r.holdReason = none ∧ r.references = 0 := by
  unfold PageRecord.releaseClass at h
  split_ifs at h with free filling held counted
  exact ⟨free, filling, by simpa using held, by omega⟩

/-- A page with references becomes release pending. -/
theorem markPending (kept : r.KeptAs works q x n) (pending : r.releaseClass = .pending) :
    PageRecord.KeptAs { r with releasePending := true } works q x n := by
  obtain ⟨used, still, lifted, counted⟩ := releaseClass_pending pending
  exact ⟨⟨fun free => absurd free used, kept.state.2⟩, fun filling => absurd filling still,
    ⟨fun held => by simp [lifted] at held, fun _ => counted⟩, kept.committed, kept.filling, kept.counted, kept.queueable,
    kept.readable⟩

theorem afterRest (kept : r.KeptAs works q x n) (retained : List Nat) :
    (r.afterRest retained).KeptAs works q x n := by
  unfold PageRecord.afterRest
  split
  · next loses =>
    obtain ⟨readable, -, -, none, -⟩ := (r.losesAt_iff retained).mp loses
    have counted := kept.counted
    have still : r.state ≠ .filling := by rcases readable with e | e | e <;> simp [e]
    exact ⟨⟨nofun, fun _ => ⟨rfl, rfl⟩⟩, nofun, kept.marks, ⟨kept.committed.1, nofun⟩,
      ⟨nofun, fun h => absurd (kept.filling.mpr h) still⟩, kept.counted, by omega, by omega⟩
  · exact kept

theorem deviceReset (kept : r.KeptAs works q x n) : r.deviceReset.KeptAs works 0 0 0 := by
  unfold PageRecord.deviceReset
  split
  · next pending =>
    refine PageRecord.free_keptAs fun h => ?_
    have bare := (kept.bare (kept.filling.mpr h)).2.2.1
    rw [bare] at pending
    cases pending
  · next pending =>
    refine ⟨⟨fun free => ?_, kept.state.2⟩, fun filling => ⟨rfl, (kept.bare filling).2⟩,
      ⟨kept.marks.1, fun h => absurd h pending⟩, kept.committed, kept.filling, rfl, by omega, by omega⟩
    have same := kept.state.1 free
    rw [same]
    rfl

end PageRecord.KeptAs

/-! ## The queue -/

theorem count_rebindEntries {old new : Handle} (other : old ≠ new) (q : List Handle) (k : Handle) :
    (rebindEntries old new q).count k + (if k = old then q.count old else 0) =
      q.count k + if k = new then q.count old else 0 := by
  induction q with
  | nil => simp [rebindEntries]
  | cons h q ih =>
    simp only [rebindEntries, List.map_cons, List.count_cons, beq_iff_eq] at ih ⊢
    grind

theorem rebindEntries_self (k : Handle) (q : List Handle) : rebindEntries k k q = q := by
  have same : (fun h : Handle => if h = k then k else h) = id := by
    funext h
    split
    · next e => exact e.symm
    · rfl
  rw [rebindEntries, same, List.map_id]

/-- Which entries a REBIND changes, as counts (R112). -/
theorem State.count_reboundQueue {old new : Handle} (other : old ≠ new) (s : State) (k : Handle) :
    (s.reboundQueue old new).count k + (if k = old then s.rebindCount old new else 0) =
      s.queue.count k + if k = new then s.rebindCount old new else 0 := by
  have rebound := count_rebindEntries other s.rebindable k
  unfold State.reboundQueue State.rebindCount State.rebindable at *
  rw [if_neg other]
  split
  · next marked =>
    rw [if_pos marked] at rebound
    have parts := List.count_append (a := k) (l₁ := s.queue.take 1) (l₂ := s.queue.drop 1)
    rw [List.take_append_drop] at parts
    rw [List.count_append]
    omega
  · next marked =>
    rwa [if_neg marked] at rebound

theorem State.reboundQueue_self (s : State) (k : Handle) : s.reboundQueue k k = s.queue := by
  rw [State.reboundQueue, rebindEntries_self, rebindEntries_self, List.take_append_drop, ite_self]

/-- The head entry leaves the queue, and its page owes a reference until that is dropped. -/
theorem State.RecordsKept.unqueue (kept : s.RecordsKept allCounted) {h : Handle} {q : List Handle}
    (queue : s.queue = h :: q) : State.RecordsKept { s with queue := q } (owedOn h 1) where
  records k := by
    have record := kept.records k
    have count : s.queue.count k = q.count k + owedOn h 1 k := by
      simp only [queue, List.count_cons, owedOn, beq_iff_eq, eq_comm (a := h)]
    have counted : (s.page k).references = q.count k + s.viewRefs k + owedOn h 1 k := by
      rw [record.counted, count]
      simp only [allCounted]
      omega
    exact ⟨record.state, record.bare, record.marks, record.committed, record.filling, counted, fun pos => record.queueable (by rw [count]; exact Nat.lt_of_lt_of_le pos (Nat.le_add_right ..)), record.readable⟩
  expects := kept.expects
  free := kept.free

theorem State.RecordsKept.removeHead (kept : s.RecordsKept allCounted) : s.removeHead.RecordsKept allCounted := by
  unfold State.removeHead
  split
  · exact kept
  · next h q queue => exact (kept.unqueue queue).dropRefs

/-- The view ends, and its page owes a reference until that is dropped. -/
theorem State.RecordsKept.unview (kept : s.RecordsKept allCounted) {x : ViewRecord} (view : s.view = some x) :
    State.RecordsKept { s with view := none } (owedOn x.handle 1) where
  records k := by
    have record := kept.records k
    have counted := record.counted
    rw [State.viewRefs_of_view view] at counted
    exact ⟨record.state, record.bare, record.marks, record.committed, record.filling, counted, record.queueable,
      fun pos => absurd pos (Nat.lt_irrefl 0)⟩
  expects := kept.expects
  free := kept.free

/-- REBIND's part of the queue and of the new page's references; the old page owes what it loses. -/
theorem State.RecordsKept.rebound (kept : s.RecordsKept allCounted) {old new : Handle}
    (ok : rebindRefusal (s.page new) = none) (other : old ≠ new) :
    State.RecordsKept ({ s with queue := s.reboundQueue old new }.addRefs new (s.rebindCount old new))
      (owedOn old (s.rebindCount old new)) := by
  obtain ⟨sealed, pending⟩ := rebindRefusal_none ok
  have page (k : Handle) : (State.addRefs { s with queue := s.reboundQueue old new } new (s.rebindCount old new)).page k =
      if k = new then { s.page new with references := (s.page new).references + s.rebindCount old new } else s.page k :=
    State.page_setPage_if { s with queue := s.reboundQueue old new } new k _
  refine ⟨fun k => ?_, ?_, ?_⟩
  · have count := s.count_reboundQueue other k
    have record := kept.records k
    rw [page]
    show PageRecord.KeptAs _ (s.WorksOn k) ((s.reboundQueue old new).count k) (s.viewRefs k) _
    by_cases e : k = new
    · subst e
      rw [if_pos rfl]
      rw [if_neg (Ne.symm other), if_pos rfl] at count
      refine record.addRefs pending (.inl sealed) (fun _ => .inl sealed) ?_
      rw [owedOn, if_neg (Ne.symm other)]
      simp only [allCounted]
      omega
    · rw [if_neg e] at count ⊢
      have counted := record.counted
      refine ⟨record.state, record.bare, record.marks, record.committed, record.filling, ?_, fun pos => ?_, record.readable⟩
      · simp only [owedOn, allCounted] at counted ⊢
        omega
      · exact record.queueable (by omega)
  · have expects := kept.expects_page (k := new)
      (r := { s.page new with references := (s.page new).references + s.rebindCount old new }) rfl rfl
    exact fun w hw => expects w (by simpa using hw)
  · have free := s.countP_setPage new
      { s.page new with references := (s.page new).references + s.rebindCount old new } fun r => r.state == .free
    have same : s.pages.toList.countP (fun r => r.state == .free) = _ := (Nat.add_right_cancel free).symm
    exact (kept.free.trans same)

/-! ## Every change -/

/-- The encoder begins at the page's committed count (R72 to R74). -/
theorem EncoderWork.begin_expects (k : Handle) (r : PageRecord) :
    (EncoderWork.begin k r.committed r.shape.positions).Expects r := by
  unfold EncoderWork.Expects EncoderWork.begin PageRecord.expectedPosition
  simp only [PageRecord.allCommitted_iff]
  refine ⟨trivial, ?_⟩
  split <;> simp_all

theorem State.countP_pages (s : State) (p : PageRecord → Bool) :
    s.pages.toList.countP p = allHandles.countP fun k => p (s.page k) := by
  rw [State.pages_toList, List.countP_map]
  rfl

theorem countP_add_of_disjoint {α : Type} {p q r : α → Bool} {l : List α}
    (either : ∀ x ∈ l, r x = (p x || q x)) (apart : ∀ x ∈ l, ¬(p x = true ∧ q x = true)) :
    l.countP r = l.countP p + l.countP q := by
  induction l with
  | nil => rfl
  | cons x l ih =>
    have here := either x (by simp)
    have one := apart x (by simp)
    rw [List.countP_cons, List.countP_cons, List.countP_cons,
      ih (fun y hy => either y (by simp [hy])) (fun y hy => apart y (by simp [hy])), here]
    by_cases hp : p x = true <;> by_cases hq : q x = true
    · exact absurd ⟨hp, hq⟩ one
    all_goals
      simp only [hp, hq]
      simp
      try omega

theorem State.viewRefs_congr (e : t.view = s.view) (k : Handle) : t.viewRefs k = s.viewRefs k := by
  rw [State.viewRefs, e, State.viewRefs]

theorem State.worksOn_same {w w' : EncoderWork} (working : s.encoder = some w) (works : t.encoder = some w')
    (handle : w'.handle = w.handle) (k : Handle) : t.WorksOn k ↔ s.WorksOn k := by
  simp [State.WorksOn, working, works, handle]

theorem PageRecord.KeptAs.of_works {r : PageRecord} {p p' : Prop} {q x n : Nat} (h : r.KeptAs p q x n) (same : p' ↔ p) :
    r.KeptAs p' q x n := by
  rw [same]
  exact h

/-- Which blocks carry which work. -/
structure State.Linked (s : State) : Prop where
  compose : s.ComposeLinked
  press : s.PressLinked
  proof : s.ProofLinked

/-- The encoder is IDLE while the Compose port is. -/
theorem State.Linked.encoder_idle (h : s.Linked) (idle : s.compose.state = .idle) : s.encoder = none := by
  by_contra works
  have := h.compose (Option.isSome_iff_ne_none.mpr works)
  simp [idle] at this

theorem Change.linked (h : Change v o s o' t) (kept : s.Linked) : t.Linked :=
  ⟨h.composeLinked kept.compose, h.pressLinked kept.press, h.proofLinked kept.proof⟩

namespace State.RecordsKept

theorem fills (kept : s.RecordsKept owed) {w : EncoderWork} (working : s.encoder = some w) :
    (s.page w.handle).state = .filling := (kept.records w.handle).filling.mpr ⟨w, working, rfl⟩

theorem queued (kept : s.RecordsKept owed) {k : Handle} (named : k ∈ s.queue) :
    (s.page k).state = .sealed ∨ (s.page k).state = .damaged :=
  (kept.records k).queueable (List.count_pos_iff.mpr named)

theorem viewed (kept : s.RecordsKept owed) {x : ViewRecord} (view : s.view = some x) :
    (s.page x.handle).state = .sealed ∨ (s.page x.handle).state = .damaged ∨ (s.page x.handle).state = .torn :=
  (kept.records x.handle).readable ((State.viewRefs_pos _).mpr ⟨x, view, rfl⟩)

/-- The press channel reads a page that the queue names. -/
theorem pressed (kept : s.RecordsKept owed) (linked : s.Linked) {c : PressChannel} (active : s.pressChannel = some c) :
    (s.page c.handle).state = .sealed ∨ (s.page c.handle).state = .damaged := by
  obtain ⟨d, hd⟩ := Option.isSome_iff_exists.mp (linked.press.channel (by simp [active]))
  obtain ⟨-, -, head, channel⟩ := linked.press.delivery d hd
  rw [channel c active]
  exact kept.queued (List.mem_of_mem_head? (Option.mem_def.mpr head))

/-- The proof channel reads the page of the view. -/
theorem proofed (kept : s.RecordsKept owed) (linked : s.Linked) {c : ProofChannel} (active : s.proofChannel = some c) :
    (s.page c.handle).state = .sealed ∨ (s.page c.handle).state = .damaged ∨ (s.page c.handle).state = .torn := by
  obtain ⟨x, hx⟩ := Option.isSome_iff_exists.mp (linked.proof.channel (by simp [active]))
  rw [(linked.proof.view x hx).2 c active]
  exact kept.viewed hx

/-- The FILLING page leaves the encoder. -/
theorem closed (kept : s.RecordsKept allCounted) {w : EncoderWork} (working : s.encoder = some w) {st : PageState}
    {es : List Nat} (closes : st = .torn ∨ st = .sealed ∧ (s.page w.handle).committed = (s.page w.handle).shape.positions)
    (pages : t.pages = (s.setPage w.handle { s.page w.handle with state := st, extents := es }).pages)
    (free : t.freeRecords = s.freeRecords) (queue : t.queue = s.queue) (view : t.view = s.view)
    (idle : t.encoder = none) : t.RecordsKept allCounted := by
  have filling := kept.fills working
  have still (j : Handle) : ¬ t.WorksOn j := fun ⟨w', hw', _⟩ => by cases idle.symm.trans hw'
  refine kept.of_page w.handle pages (fun j hj => ⟨iff_of_false (still j) ?_, by rw [queue], State.viewRefs_congr view j, rfl⟩)
    ?_ (fun w' hw' => by cases idle.symm.trans hw') ?_
  · rintro ⟨w', hw', e⟩
    cases working.symm.trans hw'
    exact hj e.symm
  · rw [queue, State.viewRefs_congr view, show t.WorksOn w.handle = False from eq_false (still _)]
    exact (kept.records w.handle).closed filling closes
  · rw [free, if_neg (by simp [filling]), if_neg]
    rcases closes with e | ⟨e, -⟩ <;> simp [e]

theorem enqueued (kept : s.RecordsKept allCounted) {k : Handle} {n : Nat}
    (ok : enqueueRefusal n s.queue.length (s.page k) = none) :
    State.RecordsKept { s.addRefs k n with queue := s.queue ++ List.replicate n k } allCounted := by
  obtain ⟨sealed, pending, -, -⟩ := enqueueRefusal_none ok
  refine kept.of_record k (r := { s.page k with references := (s.page k).references + n }) rfl (fun j hj => ?_)
    (fun _ _ => rfl) (fun _ _ => rfl) (by simp) ?_ rfl rfl .rfl rfl
  · show (s.queue ++ List.replicate n k).count j = _
    rw [List.count_append, List.count_replicate, if_neg (by simpa using Ne.symm hj), Nat.add_zero]
  · refine (kept.records k).addRefs pending (.inl sealed) (fun _ => .inl sealed) ?_
    show (s.queue ++ List.replicate n k).count k + s.viewRefs k + 0 = s.queue.count k + s.viewRefs k + 0 + n
    rw [List.count_append, List.count_replicate_self]
    omega

theorem rebinds (kept : s.RecordsKept allCounted) {old new : Handle} (ok : rebindRefusal (s.page new) = none) :
    State.RecordsKept (({ s with queue := s.reboundQueue old new }.addRefs new (s.rebindCount old new)).dropRefs old
      (s.rebindCount old new)) allCounted := by
  by_cases same : old = new
  · subst same
    have none : s.rebindCount old old = 0 := if_pos rfl
    have unchanged (u : State) (j : Handle) : (u.addRefs j 0).dropRefs j 0 = u := by
      show u.addRefs j 0 = u
      exact u.setPage_page j
    rw [none, s.reboundQueue_self, unchanged]
    exact kept
  · exact (kept.rebound ok same).dropRefs

theorem damaged (kept : s.RecordsKept allCounted) {k : Handle}
    (readable : (s.page k).state = .sealed ∨ (s.page k).state = .damaged ∨ (s.page k).state = .torn) (n : Nat) :
    (s.reportDamage k n).RecordsKept allCounted := by
  refine kept.of_record k (r := (s.page k).markDamaged n) rfl (fun _ _ => rfl) (fun _ _ => rfl) (fun _ _ => rfl) rfl
    ((kept.records k).markDamaged readable n) rfl rfl ?_ rfl
  simp only [PageRecord.markDamaged]
  split <;> simp_all

theorem views (kept : s.RecordsKept allCounted) (idle : s.view = none) {q : ViewParams}
    (ok : viewRefusal q (s.page q.handle) = none) (queue : t.queue = s.queue)
    (pages : t.pages = (s.addRefs q.handle 1).pages) (free : t.freeRecords = s.freeRecords) (encoder : t.encoder = s.encoder)
    {x : ViewRecord} (view : t.view = some x) (handle : x.handle = q.handle) : t.RecordsKept allCounted := by
  obtain ⟨readable, pending, -⟩ := viewRefusal_none ok
  have before := s.viewRefs_of_none idle
  have after (k : Handle) : t.viewRefs k = if k = q.handle then 1 else 0 := handle ▸ State.viewRefs_of_view view k
  refine kept.of_record q.handle (r := { s.page q.handle with references := (s.page q.handle).references + 1 }) pages
    (fun _ _ => by rw [queue]) (fun j hj => ?_) (fun _ _ => rfl) encoder ?_ rfl rfl .rfl free
  · rw [after, before, if_neg hj]
  · have record := kept.records q.handle
    rw [queue, after, if_pos rfl]
    refine record.addRefs pending readable record.queueable ?_
    rw [before]
    rfl

theorem resumes (kept : s.RecordsKept allCounted) (idle : s.encoder = none) {k : Handle}
    (ok : continueRefusal k (s.page k) = none) : (s.continueAt k).RecordsKept allCounted := by
  obtain ⟨torn, lifted, pending, unnamed, sound⟩ := continueRefusal_none ok
  have works (j : Handle) : (s.continueAt k).WorksOn j ↔ j = k :=
    ⟨fun ⟨w, hw, e⟩ => by cases hw; exact e.symm, fun e => ⟨_, rfl, e.symm⟩⟩
  refine kept.of_page k (r := { s.page k with state := .filling }) rfl (fun j hj => ⟨?_, rfl, rfl, rfl⟩) ?_ (fun w hw => ?_) ?_
  · refine iff_of_false (fun h => hj ((works j).mp h)) ?_
    rintro ⟨w, hw, -⟩
    cases idle.symm.trans hw
  · rw [show (s.continueAt k).WorksOn k = True from eq_true ((works k).mpr rfl)]
    exact (kept.records k).resumed ⟨lifted, pending, unnamed, sound⟩
  · cases hw
    have page : (s.continueAt k).page k = { s.page k with state := .filling } := s.page_setPage k _
    show EncoderWork.Expects _ ((s.continueAt k).page k)
    rw [page]
    exact (EncoderWork.begin_expects k (s.page k)).congr rfl .rfl rfl rfl
  · simp [torn, State.continueAt, State.setPage]

theorem rests (kept : s.RecordsKept allCounted) : s.completeRest.RecordsKept allCounted := by
  have page (k : Handle) : s.completeRest.page k = (s.page k).afterRest s.retainedSegments := s.page_losePages _ k
  have state (r : PageRecord) (l : List Nat) : (r.afterRest l).state = .free ↔ r.state = .free := by
    unfold PageRecord.afterRest
    split
    · next loses =>
      obtain ⟨readable, -⟩ := (r.losesAt_iff l).mp loses
      rcases readable with e | e | e <;> simp [e]
    · exact .rfl
  refine ⟨fun k => ?_, fun w hw => ?_, ?_⟩
  · have record := (kept.records k).afterRest s.retainedSegments
    rw [page]
    exact record
  · have filling := kept.fills hw
    rw [page, PageRecord.afterRest, if_neg]
    · exact kept.expects w hw
    · rw [PageRecord.losesAt_iff]
      simp [filling]
  · rw [State.countP_pages]
    simp only [page, Bool.beq_eq_decide_eq, state]
    have free := kept.free
    rw [State.countP_pages] at free
    exact free

/-- Device reset's part of the directory (R25). -/
theorem clears (kept : s.RecordsKept allCounted) (pages : t.pages = s.resetDirectory.pages)
    (free : t.freeRecords = s.resetDirectory.freeRecords) (queue : t.queue = []) (view : t.view = none)
    (encoder : t.encoder = s.encoder) : t.RecordsKept allCounted := by
  have page (k : Handle) : t.page k = (s.page k).deviceReset := (State.page_congr pages k).trans (s.page_resetDirectory k)
  refine ⟨fun k => ?_, fun w hw => ?_, ?_⟩
  · rw [page, queue, State.viewRefs_of_none view, State.WorksOn, encoder]
    exact (kept.records k).deviceReset
  · rw [encoder] at hw
    have pending := ((kept.records w.handle).bare (kept.fills hw)).2.2.1
    rw [page, PageRecord.deviceReset, if_neg (by simp [pending])]
    exact (kept.expects w hw).congr rfl .rfl rfl rfl
  · rw [free, State.freeRecords_resetDirectory, kept.free, State.countP_pages, State.countP_pages]
    refine (countP_add_of_disjoint (fun k _ => ?_) fun k _ ⟨free, pending⟩ => ?_).symm
    · rw [page]
      unfold PageRecord.deviceReset
      split
      · next pending => simp [pending, PageRecord.free]
      · next settled => simp [settled]
    · rw [(kept.records k).state.1 (by simpa using free)] at pending
      cases pending

/-- A commit completes (R4, R83). -/
theorem commits (kept : s.RecordsKept allCounted) {w : EncoderWork} (working : s.encoder = some w)
    (still : w.phase ≠ .complete) (length : Nat) :
    State.RecordsKept { s.setPage w.handle ((s.page w.handle).commitOne length) with
      encoder := some (w.emptied ((s.page w.handle).commitOne length).encoderPhase
        ((s.page w.handle).commitOne length).expectedPosition) } allCounted := by
  have more : (s.page w.handle).committed ≠ (s.page w.handle).shape.positions :=
    fun all => still ((kept.expects w working).2.mpr all)
  have works := State.worksOn_same (s := s) (t := { s.setPage w.handle ((s.page w.handle).commitOne length) with
      encoder := some (w.emptied ((s.page w.handle).commitOne length).encoderPhase
        ((s.page w.handle).commitOne length).expectedPosition) }) working rfl rfl
  refine kept.of_page w.handle rfl (fun j _ => ⟨works j, rfl, rfl, rfl⟩)
    (((kept.records w.handle).commitOne (kept.fills working) more length).of_works (works _)) (fun w' hw' => ?_) rfl
  cases hw'
  have page := s.page_setPage w.handle ((s.page w.handle).commitOne length)
  refine EncoderWork.Expects.congr (r := (s.page w.handle).commitOne length) ⟨rfl, ?_⟩ rfl .rfl
    (congrArg _ page) (congrArg _ page)
  show PageRecord.encoderPhase _ = _ ↔ _
  unfold PageRecord.encoderPhase
  simp only [PageRecord.allCommitted_iff]
  split <;> simp_all

/-- The FILLING page is freed (R10, R87). -/
theorem abandoned (kept : s.RecordsKept allCounted) {w : EncoderWork} (working : s.encoder = some w)
    (pages : t.pages = (s.setPage w.handle .free).pages) (free : t.freeRecords = s.freeRecords + 1)
    (queue : t.queue = s.queue) (view : t.view = s.view) (idle : t.encoder = none) : t.RecordsKept allCounted := by
  have filling := kept.fills working
  have still (j : Handle) : ¬ t.WorksOn j := fun ⟨w', hw', _⟩ => by cases idle.symm.trans hw'
  refine kept.of_page w.handle pages (fun j hj => ⟨iff_of_false (still j) ?_, by rw [queue], State.viewRefs_congr view j, rfl⟩)
    ?_ (fun w' hw' => by cases idle.symm.trans hw') ?_
  · rintro ⟨w', hw', e⟩
    cases working.symm.trans hw'
    exact hj e.symm
  · have counted := (kept.records w.handle).counted
    have none := ((kept.records w.handle).bare filling).1
    rw [queue, State.viewRefs_congr view, show s.queue.count w.handle = 0 by omega, show s.viewRefs w.handle = 0 by omega]
    exact PageRecord.free_keptAs (still _)
  · rw [free, if_neg (by simp [filling])]
    rfl

/-- The view ends and its reference is dropped (R142, R149). -/
theorem viewEnded (kept : s.RecordsKept allCounted) {x : ViewRecord} (view : s.view = some x)
    (pages : t.pages = (s.dropRefs x.handle 1).pages) (free : t.freeRecords = (s.dropRefs x.handle 1).freeRecords)
    (queue : t.queue = (s.dropRefs x.handle 1).queue) (encoder : t.encoder = (s.dropRefs x.handle 1).encoder)
    (gone : t.view = none) : t.RecordsKept allCounted := by
  have dropped := (kept.unview view).dropRefs
  rw [State.dropRefs_congr (s := s) (u := { s with view := none }) rfl rfl rfl] at dropped
  exact dropped.congr pages free (queue.trans (by simp)) (fun k => by rw [State.viewRefs_of_none gone]; rfl)
    (encoder.trans (by simp))

end State.RecordsKept

/-- Every change keeps the directory's records, given that the blocks carry their work. -/
theorem Change.recordsKept (h : Change v o s o' t) (linked : s.Linked) (kept : s.RecordsKept allCounted) :
    t.RecordsKept allCounted := by
  cases h with
  | defers d working => exact kept.of_encoder working rfl rfl .rfl
  | undefers working => exact kept.of_encoder working rfl rfl .rfl
  | @line _ _ w data working ready =>
    refine kept.of_encoder working rfl rfl ?_
    rw [ready]
    unfold EncoderWork.takeLine
    dsimp only
    split <;> simp
  | coded working coding => exact kept.of_encoder working rfl rfl (by simp [coding])
  | refused working full => exact kept.of_encoder working rfl rfl (by simp [full, EncoderWork.emptied])
  | @extentsTaken _ _ w es f working full take =>
    have filling := kept.fills working
    have coded := kept.of_encoder working (w' := { w.codeLast (s.page w.handle).shape with
        phase := .committing (.writing
          { (w.codeLast (s.page w.handle).shape).outcome (s.page w.handle).streamLength with extentsTaken := es }) })
        rfl rfl (by simp [full])
    exact coded.of_record w.handle (r := { s.page w.handle with extents := (s.page w.handle).extents ++ es }) rfl
      (fun _ _ => rfl) (fun _ _ => rfl) (fun _ _ => rfl) rfl
      (PageRecord.KeptAs.extents (coded.records w.handle) (by show (s.page w.handle).state ≠ _; simp [filling])
        (by show (s.page w.handle).state ≠ _; simp [filling]) _) rfl rfl .rfl rfl
  | wrote working writing => exact kept.of_encoder working rfl rfl (by simp [writing])
  | committed working writing => exact kept.commits working (by simp [writing]) _
  | resumes k ok idle => exact kept.resumes (linked.encoder_idle idle) ok
  | seals working still all =>
    exact kept.closed working (.inr ⟨rfl, (PageRecord.allCommitted_iff _).mp all⟩) rfl rfl rfl rfl rfl
  | abandons working => exact kept.abandoned working rfl rfl rfl rfl rfl
  | tears =>
    cases hw : s.encoder with
    | none => rwa [State.tear_none hw]
    | some w =>
      rw [State.tear_eq hw]
      exact kept.closed hw (.inl rfl) rfl rfl rfl rfl rfl
  | enqueues k n ok => exact kept.enqueued ok
  | rebinds old new ok => exact kept.rebinds ok
  | skips => exact kept.removeHead
  | marksPending k pending =>
    exact kept.of_record k rfl (fun _ _ => rfl) (fun _ _ => rfl) (fun _ _ => rfl) rfl
      ((kept.records k).markPending pending) rfl rfl .rfl rfl
  | frees k freed =>
    obtain ⟨used, still, -, none⟩ := PageRecord.KeptAs.releaseClass_freed freed
    have counted := (kept.records k).counted
    exact kept.freed k rfl rfl (fun _ => rfl) (fun _ _ => rfl) rfl rfl used still ⟨by omega, by omega, rfl⟩
  | holds k reason ok =>
    exact kept.of_record k rfl (fun _ _ => rfl) (fun _ _ => rfl) (fun _ _ => rfl) rfl
      ((kept.records k).setHold (.inr (holdRefusal_none ok))) rfl rfl .rfl rfl
  | lifts k =>
    exact kept.of_record k rfl (fun _ _ => rfl) (fun _ _ => rfl) (fun _ _ => rfl) rfl
      ((kept.records k).setHold (.inl rfl)) rfl rfl .rfl rfl
  | rests => exact kept.rests
  | clears => exact kept.clears rfl rfl rfl rfl rfl
  | pressDamages active =>
    exact kept.damaged (by rcases kept.pressed linked active with e | e <;> simp [e]) _
  | proofDamages active => exact kept.damaged (kept.proofed linked active) _
  | endsPress e resume =>
    cases hd : s.delivery with
    | none => rwa [State.endPress_none hd]
    | some d =>
      rw [State.endPress_some hd]
      have after : (s.afterPress e).RecordsKept allCounted := by
        unfold State.afterPress
        split
        · exact kept.removeHead
        · exact kept
      exact after.congr rfl rfl rfl (fun _ => rfl) rfl
  | endsView e resume =>
    cases hx : s.view with
    | none => rwa [State.endView_none hx]
    | some x => rw [State.endView_some hx]; exact kept.viewEnded hx rfl rfl rfl rfl rfl
  | dropsView =>
    cases hx : s.view with
    | none => rw [State.dropView_none hx]; exact kept.congr rfl rfl rfl (fun _ => rfl) rfl
    | some x => rw [State.dropView_eq hx]; exact kept.viewEnded hx rfl rfl rfl rfl rfl
  | views q ok idle =>
    refine kept.views ?_ ok rfl rfl rfl rfl rfl rfl
    by_contra running
    obtain ⟨x, hx⟩ := Option.ne_none_iff_exists'.mp running
    simp [(linked.proof.view x hx).1] at idle
  | @view _ _ x x' running handle =>
    exact kept.congr rfl rfl rfl (fun k => by
      rw [State.viewRefs_of_view running]
      show State.viewRefs { s with view := some x' } k = _
      rw [State.viewRefs_of_view rfl, handle]) rfl
  | begins => exact kept.congr rfl rfl rfl (fun _ => rfl) rfl
  | _ =>
    exact kept.congr (by simp) (by simp) (by simp) (fun k => State.viewRefs_congr (by simp) k) (by simp)

end Sys2Proof.Machine

/-! # Every extent stays in one place -/

namespace Sys2Proof.Machine

variable {v : Vector PageRecord 256} {o o' : Option Port} {s t u : State}

/-! ## The directory, command by command -/

theorem State.linked_of_agree (blocks : s.BlocksAgree) (directory : s.DirectoryKept) : s.Linked := by
  obtain ⟨-, compose, ⟨outbound, channel, marked⟩, ⟨shown, shows⟩, -⟩ := blocks
  obtain ⟨-, head, press, proof⟩ := State.directoryKept_iff.mp directory
  exact ⟨fun works => compose.mp works,
    ⟨fun h => channel.mp h, fun d hd => ⟨outbound.mp (by simp [hd]), marked.mpr (by simp [hd]), head d hd,
      fun c hc => press d c hd hc⟩⟩,
    ⟨fun h => shows.mp h, fun x hx => ⟨shown.mp (by simp [hx]), fun c hc => proof x c hx hc⟩⟩⟩

/-- The directory with its links to the blocks that work on it. -/
structure State.Directory (s : State) : Prop where
  linked : s.Linked
  records : s.RecordsKept allCounted

theorem State.Directory.kept (h : s.Directory) : s.DirectoryKept :=
  State.directoryKept_iff.mpr ⟨h.records, fun d hd => (h.linked.press.delivery d hd).2.2.1,
    fun d c hd hc => (h.linked.press.delivery d hd).2.2.2 c hc, fun x c hx hc => (h.linked.proof.view x hx).2 c hc⟩

theorem Change.directory (h : Change v o s o' t) (kept : s.Directory) : t.Directory :=
  ⟨h.linked kept.linked, h.recordsKept kept.linked kept.records⟩

theorem State.Directory.begun (h : s.Directory) (i : Instr) : (s.begun i).Directory := by
  rw [State.begun_eq]
  exact ⟨⟨h.linked.compose, ⟨h.linked.press.channel, h.linked.press.delivery⟩,
    ⟨h.linked.proof.channel, h.linked.proof.view⟩⟩, h.records.congr rfl rfl rfl (fun _ => rfl) rfl⟩

theorem State.reset_directory (rest : List Instr) (draws : Vector Nat 8) :
    State.Directory { State.reset with pending := rest, undefinedDraws := draws } := by
  have records := (State.directoryKept_iff.mp State.reset_directoryKept).1
  exact ⟨⟨nofun, ⟨nofun, nofun⟩, ⟨nofun, nofun⟩⟩, records.congr rfl rfl rfl (fun _ => rfl) rfl⟩

theorem State.page_openAt (s : State) (k : Handle) (q : OpenParams) (j : Handle) :
    (s.openAt k q).page j = if j = k then openedRecord q else s.page j := State.page_setPage_if s k j _

/-- A FREE record is opened while the encoder is IDLE (R6, R73). -/
theorem State.Directory.openAt (h : s.Directory) {q : OpenParams} {k : Handle} (free : (s.page k).state = .free)
    (idle : s.compose.state = .idle) : (s.openAt k q).Directory := by
  have none := h.linked.encoder_idle idle
  refine ⟨⟨fun _ => rfl, ⟨h.linked.press.channel, h.linked.press.delivery⟩,
    ⟨h.linked.proof.channel, h.linked.proof.view⟩⟩, ?_⟩
  have works (j : Handle) : (s.openAt k q).WorksOn j ↔ j = k :=
    ⟨fun ⟨w, hw, e⟩ => by cases hw; exact e.symm, fun e => ⟨_, rfl, e.symm⟩⟩
  have record := h.records.records k
  have counted := record.counted
  have unnamed : (s.page k).references = 0 := by rw [record.state.1 free]; rfl
  have some : 1 ≤ s.freeRecords := by
    rw [h.records.free, State.countP_pages]
    exact List.countP_pos_iff.mpr ⟨k, mem_allHandles k, by simpa using free⟩
  refine h.records.of_page k (r := openedRecord q) rfl (fun j hj => ⟨?_, rfl, rfl, rfl⟩) ?_ (fun w hw => ?_) ?_
  · refine iff_of_false (fun on => hj ((works j).mp on)) ?_
    rintro ⟨w, hw, -⟩
    cases none.symm.trans hw
  · rw [show (s.openAt k q).WorksOn k = True from eq_true ((works k).mpr rfl)]
    show PageRecord.KeptAs _ _ (s.queue.count k) (s.viewRefs k) _
    rw [show s.queue.count k = 0 by omega, show s.viewRefs k = 0 by omega]
    exact ⟨⟨nofun, nofun⟩, fun _ => ⟨rfl, rfl, rfl, rfl⟩, ⟨nofun, nofun⟩, ⟨Nat.zero_le _, nofun⟩,
      ⟨fun _ => trivial, fun _ => rfl⟩, rfl, fun h => absurd h (Nat.lt_irrefl 0), fun h => absurd h (Nat.lt_irrefl 0)⟩
  · cases hw
    show EncoderWork.Expects _ ((s.openAt k q).page k)
    rw [State.page_openAt, if_pos rfl]
    exact EncoderWork.begin_expects k (openedRecord q)
  · show s.freeRecords - 1 + _ = s.freeRecords + _
    rw [if_pos free, if_neg (show (openedRecord q).state ≠ .free from nofun)]
    omega

theorem exec_keeps_directory {i : Instr} (kept : s.Directory) (h : exec i s = .next t) : t.Directory :=
  exec_keeps (J := fun _ u => u.Directory) h kept State.reset_directory (fun change j => change.directory j)
    (fun _ _ _ _ free idle j => j.openAt free idle) (kept.begun i)

/-! ## Takes from the free set (R40) -/

/-- A take removes an extent that was free, and no other. -/
def Took (f f' : List Span) (e : Nat) : Prop :=
  ∀ x, (if isFree f x then 1 else 0) = (if isFree f' x then 1 else 0) + if x = e then 1 else 0

theorem above_of_isFree {f : List Span} {b x : Nat} (gap : ∀ y ∈ f, b < y.first) (free : isFree f x = true) : b < x := by
  obtain ⟨y, hy, inside⟩ := List.any_eq_true.mp free
  have := gap y hy
  simp at inside
  omega

theorem took_takeLowest {f f' : List Span} {e : Nat} (wf : spansWf f) (h : takeLowest f = some (e, f')) :
    Took f f' e := by
  cases f with
  | nil => cases h
  | cons s f =>
    cases h
    intro x
    obtain ⟨some, gap, -⟩ := spansWf_cons.mp wf
    have above : isFree f x = true → s.last + 1 < x := above_of_isFree gap
    have more : isFree (if s.first < s.last then ⟨s.first + 1, s.last⟩ :: f else f) x = true ↔
        (s.first + 1 ≤ x ∧ x ≤ s.last) ∨ isFree f x = true := by
      split
      · exact isFree_cons ..
      · next last => exact (or_iff_right (by omega)).symm
    simp only [isFree_cons, more]
    grind

theorem took_takeHighest {f f' : List Span} {e : Nat} (wf : spansWf f) (h : takeHighest f = some (e, f')) :
    Took f f' e := by
  induction f generalizing e f' with
  | nil => cases h
  | cons s f ih =>
    obtain ⟨some, gap, wf'⟩ := spansWf_cons.mp wf
    cases f with
    | nil =>
      cases h
      intro x
      have more : isFree (if s.first < s.last then [⟨s.first, s.last - 1⟩] else []) x = true ↔
          s.first ≤ x ∧ x < s.last := by
        split
        · rw [isFree_cons, isFree_nil]
          simp only [Bool.false_eq_true, or_false]
          omega
        · rw [isFree_nil]
          simp only [Bool.false_eq_true, false_iff]
          omega
      simp only [isFree_cons, isFree_nil, Bool.false_eq_true, or_false, more]
      grind
    | cons u f =>
      obtain ⟨rest, taken, rfl⟩ := takeHighest_cons h
      intro x
      have took := ih wf' taken x
      have above : isFree (u :: f) x = true → s.last + 1 < x := above_of_isFree gap
      simp only [isFree_cons s]
      grind

theorem isFree_takeExtents {r : Retention} {n : Nat} {f f' : List Span} {es : List Nat} (wf : spansWf f)
    (h : takeExtents r n f = some (es, f')) (x : Nat) :
    (if isFree f x then 1 else 0) = (if isFree f' x then 1 else 0) + es.count x := by
  induction n generalizing f es with
  | zero => cases h; rfl
  | succ n ih =>
    obtain ⟨e, es', rest, one, more, rfl⟩ := takeExtents_succ h
    have took : spansWf rest ∧ Took f rest e := by
      cases r with
      | keep => exact ⟨spansWf_takeLowest wf one, took_takeLowest wf one⟩
      | volatile => exact ⟨spansWf_takeHighest wf one, took_takeHighest wf one⟩
    rw [took.2 x, ih took.1 more, List.count_cons]
    simp only [beq_iff_eq, eq_comm (a := e)]
    omega

/-! ## Extents that go back to the free set -/

/-- Between two states the records in `gone` have given their extents back to the free set, and no others have
changed theirs. -/
structure State.Gives (s t : State) (gone : Handle → Bool) : Prop where
  extents : ∀ k, (t.page k).extents = if gone k then [] else (s.page k).extents
  still : ∀ k, gone k = true → (t.page k).state ≠ .filling
  free : ∀ e, isFree t.freeSet e = true ↔ isFree s.freeSet e = true ∨ ∃ k, gone k = true ∧ e ∈ (s.page k).extents

/-- Extents go from records to the free set, or nowhere. -/
def State.Returns (s t : State) : Prop := ∃ gone, s.Gives t gone

theorem State.Returns.same (extents : ∀ k, (t.page k).extents = (s.page k).extents) (freeSet : t.freeSet = s.freeSet) :
    s.Returns t :=
  ⟨fun _ => false, fun k => extents k, fun _ => nofun, fun e => by simp [freeSet]⟩

theorem State.Returns.of_pages (pages : t.pages = s.pages) (freeSet : t.freeSet = s.freeSet) : s.Returns t :=
  .same (fun k => by rw [State.page_congr pages]) freeSet

/-- One record changes that keeps its extents. -/
theorem State.Returns.of_record {k : Handle} {r : PageRecord} (pages : t.pages = (s.setPage k r).pages)
    (extents : r.extents = (s.page k).extents) (freeSet : t.freeSet = s.freeSet) : s.Returns t := by
  refine .same (fun j => ?_) freeSet
  rw [State.page_congr pages, State.page_setPage_if]
  split
  · next e => rw [e, extents]
  · rfl

/-- One record is freed. -/
theorem State.Returns.of_freed {k : Handle} (wf : s.FreeSetWf) (pages : t.pages = (s.setPage k .free).pages)
    (freeSet : t.freeSet = returnExtents (s.page k).extents s.freeSet) : s.Returns t := by
  have page (j : Handle) : t.page j = if j = k then PageRecord.free else s.page j :=
    (State.page_congr pages j).trans (State.page_setPage_if ..)
  refine ⟨fun j => j = k, fun j => ?_, fun j hj => ?_, fun e => ?_⟩
  · rw [page]
    by_cases e : j = k <;> simp [e, PageRecord.free]
  · rw [page, if_pos (by simpa using hj)]
    exact nofun
  · rw [freeSet, isFree_returnExtents wf]
    simp

theorem State.Returns.trans_same (same : ∀ k, (u.page k).extents = (s.page k).extents) (freeSet : u.freeSet = s.freeSet)
    (h : u.Returns t) : s.Returns t := by
  obtain ⟨gone, extents, still, free⟩ := h
  exact ⟨gone, fun k => by rw [extents, same], still, fun e => by simp only [free, freeSet, same]⟩

theorem State.Returns.congr (h : s.Returns t) (pages : u.pages = t.pages) (freeSet : u.freeSet = t.freeSet) :
    s.Returns u := by
  obtain ⟨gone, extents, still, free⟩ := h
  exact ⟨gone, fun k => by rw [State.page_congr pages, extents], fun k => by rw [State.page_congr pages]; exact still k,
    fun e => by rw [freeSet, free]⟩

theorem State.returns_dropRefs (wf : s.FreeSetWf) (k : Handle) (n : Nat) : s.Returns (s.dropRefs k n) := by
  rcases s.dropRefs_cases k n with ⟨-, e⟩ | ⟨-, -, -, e⟩ | ⟨-, -, e⟩ <;> rw [e]
  · exact .of_pages rfl rfl
  · exact .of_freed (k := k) wf rfl rfl
  · exact .of_record (k := k) (r := (s.page k).dropRefs n) rfl rfl rfl

theorem State.returns_removeHead (wf : s.FreeSetWf) : s.Returns s.removeHead := by
  unfold State.removeHead
  split
  · exact .of_pages rfl rfl
  · next h q _ => exact .trans_same (u := { s with queue := q }) (fun _ => rfl) rfl (State.returns_dropRefs (by exact wf) h 1)

theorem State.returns_completeRest (wf : s.FreeSetWf) : s.Returns s.completeRest := by
  have page (k : Handle) : s.completeRest.page k = (s.page k).afterRest s.retainedSegments := s.page_losePages _ k
  refine ⟨fun k => (s.page k).losesAt s.retainedSegments, fun k => ?_, fun k loses => ?_, State.isFree_losePages wf _⟩
  · rw [page, PageRecord.afterRest]
    split <;> rfl
  · rw [page, PageRecord.afterRest, if_pos loses]
    exact nofun

theorem State.returns_resetDirectory (wf : s.FreeSetWf) : s.Returns s.resetDirectory := by
  refine ⟨fun k => (s.page k).releasePending, fun k => ?_, fun k pending => ?_, State.isFree_resetDirectory wf⟩
  · rw [State.page_resetDirectory, PageRecord.deviceReset]
    split <;> rfl
  · rw [State.page_resetDirectory, PageRecord.deviceReset, if_pos pending]
    exact nofun

/-- A commit's take: the extents go from the free set to the tail of the page's list (R40, R81). -/
structure State.Commits (s t : State) : Prop where
  take : ∃ w es, s.encoder = some w ∧ (∃ r n, takeExtents r n s.freeSet = some (es, t.freeSet)) ∧
    t.pages = (s.setPage w.handle { s.page w.handle with extents := (s.page w.handle).extents ++ es }).pages ∧
    ∃ w' x, t.encoder = some w' ∧ w'.handle = w.handle ∧ w'.phase = .committing (.writing x) ∧ x.extentsTaken = es

/-- What a change does to the extents: it returns some, or tears the FILLING page, or takes a commit's. -/
theorem Change.extents_cases (h : Change v o s o' t) (wf : s.FreeSetWf) :
    s.Returns t ∨ t = s.tear ∨ s.Commits t := by
  cases h with
  | @extentsTaken _ _ w es f working full take =>
    exact .inr (.inr ⟨w, es, working, ⟨_, _, take⟩, rfl, _, _, rfl, rfl, rfl, rfl⟩)
  | tears => exact .inr (.inl rfl)
  | @committed _ _ w x =>
    exact .inl (.of_record (k := w.handle) (r := (s.page w.handle).commitOne x.length) rfl rfl rfl)
  | resumes k => exact .inl (.of_record (k := k) (r := { s.page k with state := .filling }) rfl rfl rfl)
  | @seals _ _ w => exact .inl (.of_record (k := w.handle) (r := { s.page w.handle with state := .sealed }) rfl rfl rfl)
  | @abandons _ _ w => exact .inl (.of_freed (k := w.handle) wf rfl rfl)
  | enqueues k n =>
    exact .inl (.of_record (k := k) (r := { s.page k with references := (s.page k).references + n }) rfl rfl rfl)
  | rebinds old new =>
    refine .inl (.trans_same (u := State.addRefs { s with queue := s.reboundQueue old new } new (s.rebindCount old new))
      (fun k => ?_) rfl (State.returns_dropRefs (by exact wf) old _))
    refine (congrArg _ (State.page_setPage_if _ new k _)).trans ?_
    split
    · next e => rw [e]; rfl
    · rfl
  | skips => exact .inl (State.returns_removeHead wf)
  | marksPending k => exact .inl (.of_record (k := k) (r := { s.page k with releasePending := true }) rfl rfl rfl)
  | frees k => exact .inl (.of_freed (k := k) wf rfl rfl)
  | holds k reason => exact .inl (.of_record (k := k) (r := { s.page k with holdReason := some reason }) rfl rfl rfl)
  | lifts k => exact .inl (.of_record (k := k) (r := { s.page k with holdReason := none }) rfl rfl rfl)
  | rests => exact .inl (State.returns_completeRest wf)
  | clears =>
    exact .inl (.trans_same (u := { s.idleProof with view := none, proofLate := false }) (fun _ => rfl) rfl
      (State.returns_resetDirectory wf))
  | @pressDamages _ _ c k band =>
    exact .inl (.of_record (k := c.handle) (r := (s.page c.handle).markDamaged band) rfl rfl rfl)
  | @proofDamages _ _ c =>
    exact .inl (.of_record (k := c.handle) (r := (s.page c.handle).markDamaged c.band) rfl rfl rfl)
  | endsPress e resume =>
    cases hd : s.delivery with
    | none => exact .inl (by rw [State.endPress_none hd]; exact .of_pages rfl rfl)
    | some d =>
      rw [State.endPress_some hd]
      have after : s.Returns (s.afterPress e) := by
        unfold State.afterPress
        split
        · exact State.returns_removeHead wf
        · exact .of_pages rfl rfl
      exact .inl (after.congr rfl rfl)
  | endsView e resume =>
    cases hx : s.view with
    | none => exact .inl (by rw [State.endView_none hx]; exact .of_pages rfl rfl)
    | some x => exact .inl (by rw [State.endView_some hx]; exact (State.returns_dropRefs wf x.handle 1).congr rfl rfl)
  | dropsView =>
    cases hx : s.view with
    | none => exact .inl (by rw [State.dropView_none hx]; exact .of_pages rfl rfl)
    | some x => exact .inl (by rw [State.dropView_eq hx]; exact (State.returns_dropRefs wf x.handle 1).congr rfl rfl)
  | views q =>
    exact .inl (.of_record (k := q.handle)
      (r := { s.page q.handle with references := (s.page q.handle).references + 1 }) rfl rfl rfl)
  | defers => exact .inl (.of_pages rfl rfl)
  | begins => exact .inl (.of_pages rfl rfl)
  | _ => exact .inl (.of_pages (by simp) (by simp))

/-! ## Each extent in one place (R39) -/

/-- How many extent lists hold an extent. -/
def State.lists (s : State) (e : Nat) : Nat := (allHandles.map fun k => (s.page k).extents.count e).sum

theorem State.placesOf_eq (s : State) (e : Nat) : s.placesOf e = (if isFree s.freeSet e then 1 else 0) + s.lists e := by
  rw [State.placesOf, State.lists, State.pages_toList, List.map_map]
  rfl

/-- The extents that records give back are in as many places as before. -/
theorem State.Gives.placesOf {gone : Handle → Bool} (h : s.Gives t gone) {e : Nat} (one : s.placesOf e ≤ 1) :
    t.placesOf e = s.placesOf e := by
  have split : s.lists e = (allHandles.map fun k => if gone k then (s.page k).extents.count e else 0).sum + t.lists e := by
    unfold State.lists
    rw [← List.sum_map_add]
    refine congrArg List.sum (List.map_congr_left fun k _ => ?_)
    rw [h.extents k]
    split <;> simp
  have none_given : (allHandles.map fun k => if gone k then (s.page k).extents.count e else 0).sum = 0 ↔
      ¬ ∃ k, gone k = true ∧ e ∈ (s.page k).extents := by
    rw [List.sum_eq_zero_iff]
    simp [List.count_eq_zero]
  have free := h.free e
  rw [State.placesOf_eq] at one ⊢
  rw [State.placesOf_eq]
  generalize (allHandles.map fun k => if gone k then (s.page k).extents.count e else 0).sum = given at *
  by_cases some : ∃ k, gone k = true ∧ e ∈ (s.page k).extents
  · rw [if_pos (free.mpr (.inr some))]
    have : given ≠ 0 := fun none => none_given.mp none some
    split_ifs at one ⊢ <;> omega
  · have none := none_given.mpr some
    simp only [free, some, or_false]
    omega

theorem sum_map_update {α : Type} {l : List α} (nodup : l.Nodup) {f g : α → Nat} {k : α} (mem : k ∈ l)
    (same : ∀ j, j ≠ k → f j = g j) : (l.map f).sum + g k = (l.map g).sum + f k := by
  induction l with
  | nil => cases mem
  | cons x l ih =>
    obtain ⟨fresh, nodup⟩ := List.nodup_cons.mp nodup
    simp only [List.map_cons, List.sum_cons]
    rcases List.mem_cons.mp mem with rfl | later
    · have rest : l.map f = l.map g := List.map_congr_left fun j hj => same j fun e => fresh (e ▸ hj)
      rw [rest]
      omega
    · have := ih nodup later
      have := same x fun e => fresh (e ▸ later)
      omega

theorem State.lists_setPage {k : Handle} {r : PageRecord} (pages : t.pages = (s.setPage k r).pages) (e : Nat) :
    t.lists e + (s.page k).extents.count e = s.lists e + r.extents.count e := by
  have page (j : Handle) : t.page j = if j = k then r else s.page j :=
    (State.page_congr pages j).trans (State.page_setPage_if ..)
  have := sum_map_update allHandles_nodup (f := fun j => (t.page j).extents.count e)
    (g := fun j => (s.page j).extents.count e) (mem_allHandles k) fun j hj => by rw [page, if_neg hj]
  rwa [page, if_pos rfl] at this

theorem State.count_le_lists (s : State) (k : Handle) (e : Nat) : (s.page k).extents.count e ≤ s.lists e :=
  List.single_le_sum (fun _ _ => Nat.zero_le _) _ (List.mem_map.mpr ⟨k, mem_allHandles k, rfl⟩)

/-- A commit's extents are the tail of its page's list. -/
def State.TailKept (s : State) : Prop := ∀ w x, s.encoder = some w → w.phase = .committing (.writing x) →
  ∃ before, (s.page w.handle).extents = before ++ x.extentsTaken

theorem State.TailKept.taken (h : s.TailKept) {w : EncoderWork} (working : s.encoder = some w) :
    ∃ before, (s.page w.handle).extents = before ++ w.phase.taken := by
  by_cases writing : ∃ x, w.phase = .committing (.writing x)
  · obtain ⟨x, hx⟩ := writing
    rw [hx]
    exact h w x working hx
  · rw [EncoderPhase.taken_other fun x hx => writing ⟨x, hx⟩]
    exact ⟨_, (List.append_nil _).symm⟩

/-- A returned list that held no extent twice, nor any that was free. -/
theorem places_returnExtents {f : List Span} (wf : spansWf f) (es : List Nat) {e : Nat}
    (one : (if isFree f e then 1 else 0) + es.count e ≤ 1) :
    (if isFree (returnExtents es f) e then 1 else 0) = (if isFree f e then 1 else 0) + es.count e := by
  have free := isFree_returnExtents wf es e
  have listed : e ∈ es ↔ es.count e ≠ 0 := by rw [← Nat.pos_iff_ne_zero, List.count_pos_iff]
  rw [listed] at free
  grind

theorem State.placesOf_tear (wf : s.FreeSetWf) (tail : s.TailKept) {e : Nat} (one : s.placesOf e ≤ 1) :
    s.tear.placesOf e = s.placesOf e := by
  cases hw : s.encoder with
  | none => rw [State.tear_none hw]
  | some w =>
    obtain ⟨before, list⟩ := tail.taken hw
    have freeSet : s.tear.freeSet = returnExtents w.phase.taken s.freeSet := by rw [State.tear_eq hw]
    have lists := State.lists_setPage (s := s) (t := s.tear) (k := w.handle) (by rw [State.tear_eq hw]) e
    have short : (s.page w.handle).extents.take ((s.page w.handle).extents.length - w.phase.taken.length) = before := by
      rw [list, List.length_append, Nat.add_sub_cancel, List.take_left']
      rfl
    have count : (s.page w.handle).extents.count e = before.count e + w.phase.taken.count e := by
      rw [list, List.count_append]
    have listed := s.count_le_lists w.handle e
    rw [short] at lists
    rw [State.placesOf_eq] at one ⊢
    rw [State.placesOf_eq, freeSet, places_returnExtents wf _ (by omega)]
    dsimp only at lists
    omega

theorem State.Commits.placesOf (h : s.Commits t) (wf : s.FreeSetWf) (e : Nat) : t.placesOf e = s.placesOf e := by
  obtain ⟨w, es, working, ⟨r, n, take⟩, pages, -⟩ := h
  have lists := State.lists_setPage pages e
  have free := isFree_takeExtents wf take e
  rw [List.count_append] at lists
  rw [State.placesOf_eq, State.placesOf_eq]
  omega

/-- The writing commit of a changed encoder is the one it had, or one just taken. -/
theorem Change.encoder_writing (h : Change v o s o' t) {w' : EncoderWork} {x' : CommitOutcome}
    (works : t.encoder = some w') (writing : w'.phase = .committing (.writing x')) :
    (∃ w x, s.encoder = some w ∧ w.phase = .committing (.writing x) ∧ w.handle = w'.handle ∧
      x.extentsTaken = x'.extentsTaken) ∨ s.Commits t := by
  cases h with
  | defers d working | undefers working =>
    cases works
    exact .inl ⟨_, _, working, writing, rfl, rfl⟩
  | @line _ _ w =>
    cases works
    unfold EncoderWork.takeLine at writing
    dsimp only at writing
    split at writing <;> cases writing
  | coded => cases works; cases writing
  | refused => cases works; cases writing
  | @extentsTaken _ _ w es f working full take => exact .inr ⟨w, es, working, ⟨_, _, take⟩, rfl, _, _, rfl, rfl, rfl, rfl⟩
  | wrote working writing' =>
    cases works
    cases writing
    exact .inl ⟨_, _, working, writing', rfl, rfl⟩
  | committed =>
    cases works
    have : ∀ r : PageRecord, r.encoderPhase ≠ .committing (.writing x') := fun r => by
      unfold PageRecord.encoderPhase
      split <;> nofun
    exact absurd writing (this _)
  | resumes =>
    cases works
    unfold EncoderWork.begin at writing
    dsimp only at writing
    split at writing <;> cases writing
  | seals => cases works
  | abandons => cases works
  | tears =>
    rw [State.tear_encoder] at works
    cases works
  | clears => exact .inl ⟨w', x', works, writing, rfl, rfl⟩
  | _ => exact .inl ⟨w', x', by simpa using works, writing, rfl, rfl⟩

theorem State.Commits.tail (h : s.Commits t) : t.TailKept := by
  obtain ⟨w, es, working, -, pages, w', x, works, handle, writing, taken⟩ := h
  intro w1 x1 works1 writing1
  cases works.symm.trans works1
  cases writing.symm.trans writing1
  rw [State.page_congr pages, handle, State.page_setPage, taken]
  exact ⟨_, rfl⟩

theorem Change.tailKept (h : Change v o s o' t) (wf : s.FreeSetWf) (kept : s.TailKept) (after : t.Directory) :
    t.TailKept := by
  intro w' x' works writing
  rcases h.extents_cases wf with ⟨gone, gives⟩ | rfl | commits
  · rcases h.encoder_writing works writing with ⟨w, x, working, before, handle, taken⟩ | commits
    · have filling := after.records.fills works
      have here : gone w'.handle = false := by
        by_contra given
        exact gives.still _ (by simpa using given) filling
      rw [gives.extents, here, ← handle, ← taken]
      exact kept w x working before
    · exact commits.tail w' x' works writing
  · rw [State.tear_encoder] at works
    cases works
  · exact commits.tail w' x' works writing

theorem Change.extentsPlaced (h : Change v o s o' t) (wf : s.FreeSetWf) (after : t.Directory) (kept : s.ExtentsPlaced) :
    t.ExtentsPlaced := by
  obtain ⟨places, tail⟩ := kept
  have one (e : Nat) : s.placesOf e ≤ 1 := by
    rw [places]
    split <;> omega
  refine ⟨fun e => ?_, h.tailKept wf tail after⟩
  rw [← places]
  rcases h.extents_cases wf with ⟨gone, gives⟩ | rfl | commits
  · exact gives.placesOf (one e)
  · exact State.placesOf_tear wf tail (one e)
  · exact commits.placesOf wf e

/-! ## The extents, command by command -/

theorem State.ExtentsPlaced.congr (h : s.ExtentsPlaced) (pages : t.pages = s.pages) (freeSet : t.freeSet = s.freeSet)
    (encoder : t.encoder = s.encoder) : t.ExtentsPlaced := by
  refine ⟨fun e => ?_, fun w x hw hx => ?_⟩
  · rw [State.placesOf, pages, freeSet]
    exact h.1 e
  · rw [State.page_congr pages]
    exact h.2 w x (encoder ▸ hw) hx

/-- The directory with the free set and the extent lists. -/
structure State.Allotted (s : State) : Prop where
  directory : s.Directory
  freeSet : s.FreeSetWf
  extents : s.ExtentsPlaced

theorem Change.allotted (h : Change v o s o' t) (kept : s.Allotted) : t.Allotted :=
  ⟨h.directory kept.directory, h.freeSetWf kept.freeSet, h.extentsPlaced kept.freeSet (h.directory kept.directory) kept.extents⟩

theorem State.Allotted.begun (h : s.Allotted) (i : Instr) : (s.begun i).Allotted := by
  refine ⟨h.directory.begun i, ?_, ?_⟩ <;> rw [State.begun_eq]
  · exact h.freeSet
  · exact h.extents

theorem State.Allotted.openAt (h : s.Allotted) {q : OpenParams} {k : Handle} (free : (s.page k).state = .free)
    (idle : s.compose.state = .idle) : (s.openAt k q).Allotted := by
  refine ⟨h.directory.openAt free idle, h.freeSet, fun e => ?_, fun w x hw hx => ?_⟩
  · have none : (s.page k).extents = [] := by rw [(h.directory.records.records k).state.1 free]; rfl
    have lists := State.lists_setPage (s := s) (t := s.openAt k q) (k := k) (r := openedRecord q) rfl e
    rw [none] at lists
    have same : (s.openAt k q).lists e = s.lists e := by
      rwa [show (openedRecord q).extents = [] from rfl, List.count_nil, Nat.add_zero, Nat.add_zero] at lists
    rw [State.placesOf_eq, same, ← h.extents.1 e, State.placesOf_eq]
    rfl
  · cases hw
    unfold EncoderWork.begin at hx
    dsimp only at hx
    split at hx <;> cases hx

theorem State.reset_freeSetWf : State.reset.FreeSetWf := by
  show spansWf [⟨384, 32767⟩]
  decide

theorem State.reset_allotted (rest : List Instr) (draws : Vector Nat 8) :
    State.Allotted { State.reset with pending := rest, undefinedDraws := draws } where
  directory := State.reset_directory rest draws
  freeSet := State.reset_freeSetWf
  extents := State.reset_extentsPlaced.congr rfl rfl rfl

theorem exec_keeps_allotted {i : Instr} (kept : s.Allotted) (h : exec i s = .next t) : t.Allotted :=
  exec_keeps (J := fun _ u => u.Allotted) h kept State.reset_allotted (fun change j => change.allotted j)
    (fun _ _ _ _ free idle j => j.openAt free idle) (kept.begun i)

end Sys2Proof.Machine

/-! # The encoder's buffers -/

namespace Sys2Proof.Machine

/-! ## Packed bytes and the running check (R56, R64) -/

@[simp] theorem length_packBytes (n : Nat) (bits : List Bool) : (packBytes n bits).length = n := by
  induction n generalizing bits with
  | zero => rfl
  | succ n ih => rw [packBytes, List.length_cons, ih]

theorem packBytes_add (m n : Nat) (bits : List Bool) :
    packBytes (m + n) bits = packBytes m bits ++ packBytes n (bits.drop (8 * m)) := by
  induction m generalizing bits with
  | zero => rw [Nat.zero_add]; rfl
  | succ m ih =>
    rw [Nat.succ_add, packBytes, packBytes, ih, List.drop_drop, List.cons_append, Nat.mul_succ, Nat.add_comm 8]

/-- The bytes that a bit stream has completed stay as it grows. -/
theorem packBytes_append {n : Nat} {bits : List Bool} (full : 8 * n ≤ bits.length) (more : List Bool) :
    packBytes n (bits ++ more) = packBytes n bits := by
  induction n generalizing bits with
  | zero => rfl
  | succ n ih =>
    have whole : ∀ tail : List Bool, (bits ++ tail).take 8 = bits.take 8 := fun tail =>
      List.take_append_of_le_length (by omega)
    rw [packBytes, packBytes, List.append_assoc, whole, whole, List.drop_append_of_le_length (by omega),
      ih (by rw [List.length_drop]; omega)]

/-- The running check is the check of the bytes completed (R64). -/
def Coding.Checked (c : Coding) (output : List Bool) : Prop := c.check = crc16 (packBytes (output.length / 8) output)

/-- What writing one code word does to the check and to the stream. -/
structure Coding.Writes (c : Coding) (output : List Bool) (c' : Coding) (output' : List Bool) : Prop where
  stream : ∃ word, word ≠ [] ∧ output' = output ++ word
  check : c'.check = checkOver c.check output.length output'

theorem Coding.Writes.checked {c c' : Coding} {output output' : List Bool} (h : c.Writes output c' output')
    (before : c.Checked output) : c'.Checked output' := by
  obtain ⟨⟨word, -, rfl⟩, check⟩ := h
  have grows : output.length / 8 ≤ (output ++ word).length / 8 := by
    rw [List.length_append]
    omega
  unfold Coding.Checked at *
  rw [check, checkOver, before, crc16, crc16, ← packBytes_append (by omega) word, ← List.foldl_append, ← packBytes_add,
    Nat.add_sub_cancel' grows]

theorem codeWord_ne_nil (esc k n : Nat) : codeWord esc k n ≠ [] := by
  unfold codeWord
  dsimp only
  split
  · simp
  · simp

theorem writeWord_writes {raw : Nat} {word : List Bool} {c : Coding} {output : List Bool} {x : Coding × List Bool}
    (some : word ≠ []) (h : writeWord raw word c output = .some x) : c.Writes output x.1 x.2 := by
  unfold writeWord at h
  split at h
  · cases h
  · cases h
    exact ⟨⟨word, some, rfl⟩, rfl⟩

theorem encodeRegular_writes {tol raw : Nat} {x : Byte} {c : Coding} {output : List Bool} {y : Coding × List Bool}
    (h : encodeRegular tol raw x c output = some y) : c.Writes output y.1 y.2 := by
  obtain ⟨z, written, rfl⟩ := Option.map_eq_some_iff.mp h
  exact ⟨(writeWord_writes (codeWord_ne_nil _ _ _) written).stream, (writeWord_writes (codeWord_ne_nil _ _ _) written).check⟩

theorem encodeRun_writes {tol raw : Nat} {xs : List Byte} {c : Coding} {output : List Bool} {y : Coding × List Bool}
    (h : encodeRun tol raw xs c output = some y) : c.Writes output y.1 y.2 := by
  obtain ⟨z, written, rfl⟩ := Option.map_eq_some_iff.mp h
  exact ⟨(writeWord_writes (codeWord_ne_nil _ _ _) written).stream, (writeWord_writes (codeWord_ne_nil _ _ _) written).check⟩

/-- What every word, the end of a row and a stop keep, coding the rest of a row keeps. -/
theorem encodeRest_keeps {P : Coding → List Bool → Prop} (word : ∀ {c o c' o'}, Coding.Writes c o c' o' → P c o → P c' o')
    (row : ∀ {c o}, P c o → P c.endRow o) (stop : ∀ {c o}, P c o → P { c with stopped := true } o) (tol raw fuel : Nat)
    (xs : List Byte) (c : Coding) (o : List Bool) (h : P c o) :
    P (encodeRest tol raw fuel xs c o).1 (encodeRest tol raw fuel xs c o).2 := by
  induction fuel generalizing xs c o with
  | zero => exact h
  | succ fuel ih =>
    cases xs with
    | nil => exact row h
    | cons x xs =>
      unfold encodeRest
      split
      · split
        · exact stop h
        · next done => exact ih _ _ _ (word (encodeRegular_writes done) h)
      · split
        · exact stop h
        · next done => exact ih _ _ _ (word (encodeRun_writes done) h)

theorem encodeLine_checked (tol raw : Nat) (line : List Byte) {c : Coding} {o : List Bool} (h : c.Checked o) :
    (encodeLine tol raw line c o).1.Checked (encodeLine tol raw line c o).2 := by
  unfold encodeLine
  split
  · exact h
  · exact encodeRest_keeps (P := Coding.Checked) (fun written => written.checked) id id _ _ _ _ _ _ h

/-- Coding has stopped, or the stream holds a bit. -/
def Coding.Begun (c : Coding) (o : List Bool) : Prop := c.stopped = true ∨ o ≠ []

theorem Coding.Writes.begun {c c' : Coding} {o o' : List Bool} (h : c.Writes o c' o') : c'.Begun o' := by
  obtain ⟨word, some, rfl⟩ := h.stream
  exact .inr (by simp [some])

theorem encodeLine_begun (tol raw : Nat) {line : List Byte} (some : line ≠ []) (c : Coding) (o : List Bool) :
    (encodeLine tol raw line c o).1.Begun (encodeLine tol raw line c o).2 := by
  have rest (fuel : Nat) (xs : List Byte) (c : Coding) (o : List Bool) (h : c.Begun o) :=
    encodeRest_keeps (P := Coding.Begun) (fun written _ => written.begun) id (fun _ => .inl rfl) tol raw fuel xs c o h
  unfold encodeLine
  split
  · next stopped => exact .inl stopped
  · obtain ⟨x, xs, rfl⟩ := List.exists_cons_of_ne_nil some
    unfold encodeRest
    split
    · split
      · exact .inl rfl
      · next done => exact rest _ _ _ _ (encodeRegular_writes done).begun
    · split
      · exact .inl rfl
      · next done => exact rest _ _ _ _ (encodeRun_writes done).begun

/-! ## Whole plane-bands -/

theorem encodeRows_append (tol raw : Nat) (rows : List (List Byte)) (row : List Byte) :
    encodeRows tol raw (rows ++ [row]) =
      encodeLine tol raw row (encodeRows tol raw rows).1 (encodeRows tol raw rows).2 := by
  simp [encodeRows]

theorem encodeRows_checked (tol raw : Nat) (rows : List (List Byte)) :
    (encodeRows tol raw rows).1.Checked (encodeRows tol raw rows).2 := by
  induction rows using List.reverseRecOn with
  | nil => simp [encodeRows, Coding.Checked, packBytes, crc16, Coding.initial]
  | append_singleton rows row ih => rw [encodeRows_append]; exact encodeLine_checked _ _ _ ih

theorem encodeRows_begun (tol raw : Nat) {rows : List (List Byte)} (some : rows ≠ []) (full : ∀ row ∈ rows, row ≠ []) :
    (encodeRows tol raw rows).1.Begun (encodeRows tol raw rows).2 := by
  induction rows using List.reverseRecOn with
  | nil => exact absurd rfl some
  | append_singleton rows row _ =>
    rw [encodeRows_append]
    exact encodeLine_begun _ _ (full row (by simp)) _ _

/-- The check that a finished plane-band carries on over its padded last byte covers its stored bytes (R64). -/
theorem crc16_codedBytes {c : Coding} {o : List Bool} (h : c.Checked o) :
    ((codedBytes o).drop (o.length / 8)).foldl crc16Byte c.check = crc16 (codedBytes o) := by
  have whole : ceilDiv o.length 8 = o.length / 8 + (ceilDiv o.length 8 - o.length / 8) := by
    unfold ceilDiv
    omega
  have parts : codedBytes o = packBytes (o.length / 8) o ++
      packBytes (ceilDiv o.length 8 - o.length / 8) (o.drop (8 * (o.length / 8))) := by
    rw [codedBytes, whole, packBytes_add, ← whole]
  have cut := List.drop_left' (l₁ := packBytes (o.length / 8) o)
    (l₂ := packBytes (ceilDiv o.length 8 - o.length / 8) (o.drop (8 * (o.length / 8)))) (length_packBytes ..)
  rw [parts, cut, h, crc16, crc16, List.foldl_append]

/-! ## Staged rows -/

theorem stagedRows_succ (width n : Nat) (staging : List Byte) :
    stagedRows width (n + 1) staging = stagedRows width n staging ++ [(staging.drop (n * width)).take width] := by
  simp [stagedRows, List.range_succ]

theorem stagedRows_append {width n : Nat} {staging : List Byte} (full : n * width ≤ staging.length) (line : List Byte) :
    stagedRows width n (staging ++ line) = stagedRows width n staging := by
  unfold stagedRows
  refine List.map_congr_left fun i hi => ?_
  have inside : (i + 1) * width ≤ n * width := Nat.mul_le_mul_right _ (List.mem_range.mp hi)
  rw [Nat.succ_mul] at inside
  rw [List.drop_append_of_le_length (by omega), List.take_append_of_le_length (by rw [List.length_drop]; omega)]

/-! ## The encoder's work, step by step -/

variable {w : EncoderWork} {p : Shape} {stream : Nat}

/-- Only what a plane-band's buffers hold counts. -/
theorem EncoderWork.CodedTo.congr {w' : EncoderWork} {n : Nat} (h : w.CodedTo p n) (expected : w'.expected = w.expected)
    (staging : stagedRows p.width n w'.staging = stagedRows p.width n w.staging) (coding : w'.coding = w.coding)
    (output : w'.output = w.output) : w'.CodedTo p n := by
  have band : w'.band p = w.band p := by rw [EncoderWork.band, EncoderWork.band, expected]
  have plane : w'.plane p = w.plane p := by rw [EncoderWork.plane, EncoderWork.plane, expected]
  unfold EncoderWork.CodedTo at *
  rw [band, plane, staging, coding, output]
  exact h

theorem EncoderWork.codedTo_zero (coding : w.coding = some Coding.initial) (output : w.output = []) : w.CodedTo p 0 :=
  ⟨coding, output⟩

/-- A line joins the staging buffer (R78, R80). -/
theorem EncoderWork.Kept.takeLine (h : w.Kept p stream) (ready : w.phase = .ready) {line : List Byte}
    (whole : line.length = p.width) : (w.takeLine p line).Kept p stream := by
  obtain ⟨length, buffers⟩ := h
  rw [ready] at buffers
  obtain ⟨room, coded⟩ := buffers
  have before : (w.takeLine p line).CodedTo p w.stagedLines := by
    by_cases first : w.stagedLines = 0
    · rw [first]
      exact EncoderWork.codedTo_zero (by simp [EncoderWork.takeLine, first]) (by simp [EncoderWork.takeLine, first])
    · refine (coded (by omega)).congr rfl (stagedRows_append (by omega) line) ?_ ?_
      · simp [EncoderWork.takeLine, first]
      · simp [EncoderWork.takeLine, first]
  have staged : (w.takeLine p line).staging.length = (w.stagedLines + 1) * p.width := by
    rw [EncoderWork.takeLine, List.length_append, length, whole, Nat.succ_mul]
  have band : (w.takeLine p line).band p = w.band p := rfl
  refine ⟨staged, ?_⟩
  by_cases last : w.stagedLines + 1 = p.bandLines (w.band p)
  · have phase : (w.takeLine p line).phase = .committing .finishing := if_pos last
    rw [phase, band, ← last]
    exact ⟨Nat.succ_pos _, rfl, before⟩
  · have phase : (w.takeLine p line).phase = .lineCoding := if_neg last
    rw [phase, band]
    exact ⟨Nat.succ_pos _, by show w.stagedLines + 1 < _; omega, before⟩

/-- The last staged line is coded (R78, R79). -/
theorem EncoderWork.CodedTo.codeLast {n : Nat} (h : w.CodedTo p n) (staged : w.stagedLines = n + 1)
    (length : w.staging.length = w.stagedLines * p.width) : (w.codeLast p).CodedTo p (n + 1) := by
  obtain ⟨coding, output⟩ := h
  have row : (w.staging.drop (n * p.width)).take p.width = w.staging.drop (n * p.width) := by
    refine List.take_of_length_le ?_
    rw [List.length_drop, length, staged, Nat.succ_mul]
    omega
  have band : (w.codeLast p).band p = w.band p := rfl
  have plane : (w.codeLast p).plane p = w.plane p := rfl
  have staging : (w.codeLast p).staging = w.staging := rfl
  unfold EncoderWork.CodedTo
  rw [band, plane, staging, stagedRows_succ, row, encodeRows_append]
  unfold EncoderWork.codeLast
  rw [staged, coding, output, Nat.add_sub_cancel]
  exact ⟨rfl, rfl⟩

/-- The buffers are emptied for a position whose band has lines (R71). -/
theorem EncoderWork.emptied_kept {phase : EncoderPhase} {expected : Option Nat}
    (lines : phase = .complete ∨ phase = .ready ∧ 0 < p.bandLines (expected.getD 0 / p.planes)) :
    (w.emptied phase expected).Kept p stream := by
  refine ⟨(Nat.zero_mul _).symm, ?_⟩
  rcases lines with rfl | ⟨rfl, some⟩
  · rfl
  · exact ⟨some, fun h => absurd h (Nat.lt_irrefl 0)⟩

theorem EncoderWork.Kept.codeLine (h : w.Kept p stream) (coding : w.phase = .lineCoding) :
    EncoderWork.Kept { w.codeLast p with phase := .ready } p stream := by
  obtain ⟨length, buffers⟩ := h
  rw [coding] at buffers
  obtain ⟨some, room, coded⟩ := buffers
  obtain ⟨n, hn⟩ : ∃ n, w.stagedLines = n + 1 := ⟨w.stagedLines - 1, by omega⟩
  rw [hn, Nat.add_sub_cancel] at coded
  refine ⟨length, room, fun _ => ?_⟩
  show EncoderWork.CodedTo _ p w.stagedLines
  rw [hn]
  exact (coded.codeLast hn length).congr rfl rfl rfl rfl

/-- The plane-band is finished and its commit begins (R61, R64, R80, R81). -/
theorem EncoderWork.Kept.finish (h : w.Kept p stream) (full : w.phase = .committing .finishing) (es : List Nat) :
    EncoderWork.Kept { w.codeLast p with
      phase := .committing (.writing { (w.codeLast p).outcome stream with extentsTaken := es }) } p stream := by
  obtain ⟨length, buffers⟩ := h
  rw [full] at buffers
  obtain ⟨some, staged, coded⟩ := buffers
  obtain ⟨n, hn⟩ : ∃ n, w.stagedLines = n + 1 := ⟨w.stagedLines - 1, by omega⟩
  have lines : p.bandLines (w.band p) - 1 = n := by omega
  rw [lines] at coded
  have finished := coded.codeLast hn length
  refine ⟨length, some, staged, ?_, ?_⟩
  · show EncoderWork.CodedTo _ p (p.bandLines (w.band p))
    rw [← staged, hn]
    exact finished.congr rfl rfl rfl rfl
  · obtain ⟨coding, output⟩ := finished
    have checked := encodeRows_checked (p.tol ((w.codeLast p).plane p)) (p.raw ((w.codeLast p).band p))
      (stagedRows p.width (n + 1) (w.codeLast p).staging)
    rw [← output] at checked
    generalize (encodeRows (p.tol ((w.codeLast p).plane p)) (p.raw ((w.codeLast p).band p))
      (stagedRows p.width (n + 1) (w.codeLast p).staging)).1 = c at *
    have mode : (w.codeLast p).storageMode = if c.stopped then .raw else .coded := by
      rw [EncoderWork.storageMode, coding, Option.getD_some]
    refine ⟨⟨c, coding, ?_⟩, ?_, ?_, rfl, Nat.succ_le_succ (Nat.zero_le _), Nat.le_refl _⟩
    · show (w.codeLast p).storageMode = .raw ↔ _
      rw [mode]
      split <;> simp_all
    · unfold EncoderWork.outcome
      dsimp only
      cases (w.codeLast p).storageMode <;> rfl
    · unfold EncoderWork.outcome
      dsimp only
      cases (w.codeLast p).storageMode with
      | raw => rfl
      | coded =>
        show ((codedBytes _).drop _).foldl crc16Byte ((w.codeLast p).coding.getD Coding.initial).check = _
        rw [coding, Option.getD_some]
        exact crc16_codedBytes checked

/-- One write of the commit has completed, and more remain (R82). -/
theorem EncoderWork.Kept.wrote (h : w.Kept p stream) {x : CommitOutcome} (writing : w.phase = .committing (.writing x))
    (left : x.writesRemaining - 1 ≠ 0) : EncoderWork.Kept { w with
      phase := .committing (.writing { x with writesRemaining := x.writesRemaining - 1 }) } p stream := by
  obtain ⟨length, buffers⟩ := h
  rw [writing] at buffers
  obtain ⟨some, staged, coded, ⟨mode, size, check, offset, -, most⟩⟩ := buffers
  exact ⟨length, some, staged, coded, mode, size, check, offset, Nat.one_le_iff_ne_zero.mpr left,
    Nat.le_trans (Nat.sub_le ..) most⟩

/-- A plane-band under commit has stored bytes. -/
theorem EncoderWork.Kept.length_pos (h : w.Kept p stream) (width : 1 ≤ p.width) {x : CommitOutcome}
    (writing : w.phase = .committing (.writing x)) : 1 ≤ x.length := by
  obtain ⟨length, buffers⟩ := h
  rw [writing] at buffers
  obtain ⟨some, staged, ⟨coding, output⟩, ⟨⟨c, coding', mode⟩, size, -⟩⟩ := buffers
  have stagedSome : 1 ≤ w.staging.length := by
    rw [length, staged]
    exact Nat.mul_pos some width
  rw [size]
  cases e : x.mode with
  | raw => exact stagedSome
  | coded =>
    have going : c.stopped = false := by simpa [e] using mode
    have begun := encodeRows_begun (p.tol (w.plane p)) (p.raw (w.band p))
      (rows := stagedRows p.width (p.bandLines (w.band p)) w.staging) ?_ ?_
    · rw [← output] at begun
      cases coding.symm.trans coding'
      rcases begun with stopped | bits
      · simp [going] at stopped
      · show 1 ≤ (codedBytes w.output).length
        rw [codedBytes, length_packBytes]
        exact ceilDiv_pos (List.length_pos_of_ne_nil bits) (by decide)
    · intro none
      have := congrArg List.length none
      simp [stagedRows] at this
      omega
    · intro row hrow
      obtain ⟨i, hi, rfl⟩ := List.mem_map.mp hrow
      have inside : (i + 1) * p.width ≤ w.stagedLines * p.width :=
        Nat.mul_le_mul_right _ (by rw [staged]; exact List.mem_range.mp hi)
      rw [Nat.succ_mul, ← length] at inside
      intro none
      have := congrArg List.length none
      rw [List.length_take, List.length_drop, List.length_nil] at this
      omega

end Sys2Proof.Machine

/-! # What every step keeps: the streams of the pages and the encoder's buffers -/

namespace Sys2Proof.Machine

variable {v : Vector PageRecord 256} {o o' : Option Port} {s t : State}

/-! ## Streams -/

/-- The record holds a page of the same shape, stream length and extents. -/
structure PageRecord.SameStream (r r' : PageRecord) : Prop where
  shape : r'.shape = r.shape
  stream : r'.streamLength = r.streamLength
  extents : r'.extents = r.extents

theorem PageRecord.SameStream.refl (r : PageRecord) : r.SameStream r := ⟨rfl, rfl, rfl⟩

/-- The record holds no stream, or the stream it held. -/
def PageRecord.Carries (r r' : PageRecord) : Prop := (r'.state = .free ∨ r'.state = .lost) ∨ r.SameStream r'

theorem PageRecord.Carries.refl (r : PageRecord) : r.Carries r := .inr (.refl r)

theorem PageRecord.SameStream.carries {r r' r'' : PageRecord} (same : r.SameStream r') (h : r'.Carries r'') : r.Carries r'' :=
  h.imp_right fun h' =>
    ⟨h'.shape.trans same.shape, h'.stream.trans same.stream, h'.extents.trans same.extents⟩

theorem PageRecord.carries_afterRest (kept : List Nat) (r : PageRecord) : r.Carries (r.afterRest kept) := by
  unfold PageRecord.afterRest
  split
  · exact .inl (.inr rfl)
  · exact .refl r

theorem PageRecord.carries_deviceReset (r : PageRecord) : r.Carries r.deviceReset := by
  unfold PageRecord.deviceReset
  split
  · exact .inl (.inl rfl)
  · exact .inr ⟨rfl, rfl, rfl⟩

/-- Every page keeps its stream or loses it, and no commit begins or ends. -/
structure State.Carries (s t : State) : Prop where
  pages : ∀ k, (s.page k).Carries (t.page k)
  inFlight : ∀ k, t.inFlight k = s.inFlight k

/-- The encoder's page at the three changes of its stream or extents: a commit's take, its completion and its
cancelling. -/
inductive State.Writes (s t : State) : Prop
  | takes {w w' x} (working : s.encoder = some w) (full : w.phase = .committing .finishing)
      (taken : x.extentsTaken.length = extentsNeeded (s.page w.handle) x.length)
      (pages : t.pages = (s.setPage w.handle
        { s.page w.handle with extents := (s.page w.handle).extents ++ x.extentsTaken }).pages)
      (encoder : t.encoder = some w') (handle : w'.handle = w.handle) (writing : w'.phase = .committing (.writing x))
  | commits {w x} (working : s.encoder = some w) (writing : w.phase = .committing (.writing x))
      (pages : t.pages = (s.setPage w.handle ((s.page w.handle).commitOne x.length)).pages)
      (encoder : t.encoder = some (w.emptied ((s.page w.handle).commitOne x.length).encoderPhase
        ((s.page w.handle).commitOne x.length).expectedPosition))
  | tears {w x} (working : s.encoder = some w) (writing : w.phase = .committing (.writing x))
      (pages : t.pages = (s.setPage w.handle { s.page w.handle with
        state := .torn
        extents := (s.page w.handle).extents.take
          ((s.page w.handle).extents.length - x.extentsTaken.length) }).pages)
      (encoder : t.encoder = none)

theorem State.inFlight_congr (e : t.encoder = s.encoder) (k : Handle) : t.inFlight k = s.inFlight k := by
  rw [State.inFlight, State.inFlight, e]

theorem State.inFlight_of_none (none : s.encoder = none) (k : Handle) : s.inFlight k = (0, []) := by
  rw [State.inFlight, none]

theorem State.inFlight_of_writing {w : EncoderWork} {x : CommitOutcome} (working : s.encoder = some w)
    (writing : w.phase = .committing (.writing x)) (k : Handle) :
    s.inFlight k = if w.handle = k then (x.length, x.extentsTaken) else (0, []) := by
  rw [State.inFlight, working]
  dsimp only
  rw [writing]

/-- No commit's writes are under way. -/
def EncoderPhase.Still (p : EncoderPhase) : Prop := ∀ x, p ≠ .committing (.writing x)

theorem State.inFlight_of_still {w : EncoderWork} (working : s.encoder = some w) (still : w.phase.Still) (k : Handle) :
    s.inFlight k = (0, []) := by
  rw [State.inFlight, working]
  dsimp only
  split
  · next x e => exact absurd e (still x)
  · rfl

theorem EncoderPhase.still_of_not_committing {p : EncoderPhase} (h : p.isCommitting = false) : p.Still := by
  rintro x rfl
  cases h

theorem PageRecord.encoderPhase_still (r : PageRecord) : r.encoderPhase.Still := by
  unfold PageRecord.encoderPhase
  split <;> nofun

theorem EncoderWork.begin_still (k : Handle) (n m : Nat) : (EncoderWork.begin k n m).phase.Still := by
  unfold EncoderWork.begin
  dsimp only
  split <;> nofun

theorem EncoderWork.takeLine_still (w : EncoderWork) (p : Shape) (line : List Byte) : (w.takeLine p line).phase.Still := by
  unfold EncoderWork.takeLine
  dsimp only
  split <;> nofun

theorem State.carries_of_pages (pages : t.pages = s.pages) (encoder : t.encoder = s.encoder) : s.Carries t :=
  ⟨fun k => State.page_congr pages k ▸ .refl _, State.inFlight_congr encoder⟩

theorem State.carries_of_still {w w' : EncoderWork} (pages : t.pages = s.pages) (working : s.encoder = some w)
    (works : t.encoder = some w') (still : w.phase.Still) (still' : w'.phase.Still) : s.Carries t :=
  ⟨fun k => State.page_congr pages k ▸ .refl _,
    fun k => (State.inFlight_of_still works still' k).trans (State.inFlight_of_still working still k).symm⟩

theorem State.carries_record {k : Handle} {r : PageRecord} (carries : (s.page k).Carries r)
    (pages : t.pages = (s.setPage k r).pages) (j : Handle) : (s.page j).Carries (t.page j) := by
  rw [State.page_congr pages, State.page_setPage_if]
  split
  · next e => exact e ▸ carries
  · exact .refl _

theorem State.carries_of_record {k : Handle} {r : PageRecord} (carries : (s.page k).Carries r)
    (pages : t.pages = (s.setPage k r).pages) (encoder : t.encoder = s.encoder) : s.Carries t :=
  ⟨State.carries_record carries pages, State.inFlight_congr encoder⟩

/-- The encoder goes IDLE with no commit's writes under way. -/
theorem State.carries_of_idle {k : Handle} {r : PageRecord} {w : EncoderWork} (carries : (s.page k).Carries r)
    (pages : t.pages = (s.setPage k r).pages) (working : s.encoder = some w) (still : w.phase.Still)
    (none : t.encoder = none) : s.Carries t :=
  ⟨State.carries_record carries pages,
    fun j => (State.inFlight_of_none none j).trans (State.inFlight_of_still working still j).symm⟩

theorem State.carries_dropRefs (s : State) (h : Handle) (n : Nat) (k : Handle) :
    (s.page k).Carries ((s.dropRefs h n).page k) := by
  rcases s.dropRefs_cases h n with ⟨-, e⟩ | ⟨-, -, -, e⟩ | ⟨-, -, e⟩ <;> rw [e]
  · exact .refl _
  · exact State.carries_record (k := h) (r := .free) (.inl (.inl rfl)) rfl k
  · exact State.carries_record (k := h) (r := (s.page h).dropRefs n) (.inr ⟨rfl, rfl, rfl⟩) rfl k

theorem State.carries_removeHead (s : State) (k : Handle) : (s.page k).Carries (s.removeHead.page k) := by
  unfold State.removeHead
  split
  · exact .refl _
  · exact State.carries_dropRefs { s with queue := _ } _ _ k

theorem State.carries_afterPress (s : State) (e : Ending) (k : Handle) : (s.page k).Carries ((s.afterPress e).page k) := by
  unfold State.afterPress
  split
  · exact s.carries_removeHead k
  · exact .refl _

theorem length_takeExtents {r : Retention} {n : Nat} {f f' : List Span} {es : List Nat}
    (h : takeExtents r n f = some (es, f')) : es.length = n := by
  induction n generalizing f f' es with
  | zero => cases h; rfl
  | succ n ih =>
    obtain ⟨e, f1, es', first, rest, rfl⟩ := takeExtents_succ h
    rw [List.length_cons, ih rest]

/-- Every change carries the streams, or writes the encoder's page. -/
theorem Change.carries (h : Change v o s o' t) (linked : s.Linked) : s.Carries t ∨ s.Writes t := by
  cases h with
  | defers d working => exact .inl ⟨fun _ => .refl _, fun _ => by rw [State.inFlight, State.inFlight, working]; rfl⟩
  | undefers working => exact .inl ⟨fun _ => .refl _, fun _ => by rw [State.inFlight, State.inFlight, working]⟩
  | line working ready => exact .inl (State.carries_of_still rfl working rfl (by rw [ready]; nofun) fun _ => EncoderWork.takeLine_still _ _ _ _)
  | coded working coding => exact .inl (State.carries_of_still rfl working rfl (by rw [coding]; nofun) nofun)
  | refused working full => exact .inl (State.carries_of_still rfl working rfl (by rw [full]; nofun) nofun)
  | extentsTaken working full take => exact .inr (.takes working full (length_takeExtents take) rfl rfl rfl rfl)
  | wrote working writing =>
    exact .inl ⟨fun _ => .refl _, fun k => by
      rw [State.inFlight_of_writing working writing, State.inFlight]⟩
  | committed working writing => exact .inr (.commits working writing rfl rfl)
  | resumes k ok idle =>
    have none := linked.encoder_idle idle
    exact .inl ⟨State.carries_record (k := k) (r := { s.page k with state := .filling }) (.inr ⟨rfl, rfl, rfl⟩) rfl,
      fun j => (State.inFlight_of_still rfl (fun _ => EncoderWork.begin_still _ _ _ _) j).trans (State.inFlight_of_none none j).symm⟩
  | @seals _ _ w working still =>
    exact .inl (State.carries_of_idle (k := w.handle) (r := { s.page w.handle with state := .sealed }) (.inr ⟨rfl, rfl, rfl⟩)
      rfl working (EncoderPhase.still_of_not_committing still) rfl)
  | @abandons _ _ w working still =>
    exact .inl (State.carries_of_idle (k := w.handle) (r := .free) (.inl (.inl rfl)) rfl working
      (EncoderPhase.still_of_not_committing still) rfl)
  | tears =>
    cases hw : s.encoder with
    | none => exact .inl (by rw [State.tear_none hw]; exact State.carries_of_pages rfl rfl)
    | some w =>
      rw [State.tear_eq hw]
      by_cases writing : ∃ x, w.phase = .committing (.writing x)
      · obtain ⟨x, writing⟩ := writing
        rw [writing]
        exact .inr (.tears hw writing rfl rfl)
      · have still : w.phase.Still := fun x e => writing ⟨x, e⟩
        have none : w.phase.taken = [] := by
          unfold EncoderPhase.taken
          split
          · next x e => exact absurd e (still x)
          · rfl
        refine .inl (State.carries_of_idle (k := w.handle) ?_ rfl hw still rfl)
        rw [none]
        exact .inr ⟨rfl, rfl, List.take_length⟩
  | enqueues k n =>
    exact .inl (State.carries_of_record (k := k) (r := { s.page k with references := (s.page k).references + n })
      (.inr ⟨rfl, rfl, rfl⟩) rfl rfl)
  | rebinds old new =>
    refine .inl ⟨fun k => ?_, State.inFlight_congr (by simp)⟩
    have added : (s.page k).SameStream
        ((State.addRefs { s with queue := s.reboundQueue old new } new (s.rebindCount old new)).page k) := by
      refine (congrArg (PageRecord.SameStream _) (State.page_setPage_if _ new k _)).mpr ?_
      split
      · next e => rw [e]; exact ⟨rfl, rfl, rfl⟩
      · exact .refl _
    exact added.carries (State.carries_dropRefs _ old (s.rebindCount old new) k)
  | skips => exact .inl ⟨s.carries_removeHead, State.inFlight_congr (by simp)⟩
  | marksPending k =>
    exact .inl (State.carries_of_record (k := k) (r := { s.page k with releasePending := true }) (.inr ⟨rfl, rfl, rfl⟩) rfl rfl)
  | frees k => exact .inl (State.carries_of_record (k := k) (r := .free) (.inl (.inl rfl)) rfl rfl)
  | holds k reason =>
    exact .inl (State.carries_of_record (k := k) (r := { s.page k with holdReason := some reason }) (.inr ⟨rfl, rfl, rfl⟩) rfl rfl)
  | lifts k =>
    exact .inl (State.carries_of_record (k := k) (r := { s.page k with holdReason := none }) (.inr ⟨rfl, rfl, rfl⟩) rfl rfl)
  | rests =>
    refine .inl ⟨fun k => ?_, State.inFlight_congr rfl⟩
    rw [show s.completeRest.page k = (s.losePages s.retainedSegments).page k from rfl, State.page_losePages]
    exact PageRecord.carries_afterRest _ _
  | clears =>
    refine .inl ⟨fun k => ?_, State.inFlight_congr rfl⟩
    rw [State.page_resetDirectory]
    exact PageRecord.carries_deviceReset _
  | @pressDamages _ _ c k band =>
    exact .inl (State.carries_of_record (k := c.handle) (r := (s.page c.handle).markDamaged band) (.inr ⟨rfl, rfl, rfl⟩) rfl rfl)
  | @proofDamages _ _ c =>
    exact .inl (State.carries_of_record (k := c.handle) (r := (s.page c.handle).markDamaged c.band) (.inr ⟨rfl, rfl, rfl⟩) rfl rfl)
  | endsPress e resume =>
    cases hd : s.delivery with
    | none => exact .inl (by rw [State.endPress_none hd]; exact State.carries_of_pages rfl rfl)
    | some d => exact .inl ⟨fun k => by rw [State.endPress_some hd]; exact s.carries_afterPress e k, State.inFlight_congr (by simp)⟩
  | endsView e resume =>
    cases hx : s.view with
    | none => exact .inl (by rw [State.endView_none hx]; exact State.carries_of_pages rfl rfl)
    | some x =>
      exact .inl ⟨fun k => by rw [State.endView_some hx]; exact s.carries_dropRefs _ 1 k, State.inFlight_congr (by simp)⟩
  | dropsView =>
    cases hx : s.view with
    | none => exact .inl (by rw [State.dropView_none hx]; exact State.carries_of_pages rfl rfl)
    | some x =>
      exact .inl ⟨fun k => by rw [State.dropView_eq hx]; exact s.carries_dropRefs _ 1 k, State.inFlight_congr (by simp)⟩
  | views q =>
    exact .inl (State.carries_of_record (k := q.handle)
      (r := { s.page q.handle with references := (s.page q.handle).references + 1 }) (.inr ⟨rfl, rfl, rfl⟩) rfl rfl)
  | _ => exact .inl (State.carries_of_pages (by simp) (by simp))

/-- Where the encoder is as it was, the streams are carried. -/
theorem State.Writes.encoder_ne (h : s.Writes t) : t.encoder ≠ s.encoder := by
  intro e
  cases h with
  | takes working full _ _ works _ writing =>
    rw [working, works] at e
    cases e
    cases full.symm.trans writing
  | @commits w x working writing pages works =>
    rw [working, works] at e
    injection e with e
    exact ((s.page w.handle).commitOne x.length).encoderPhase_still x ((congrArg EncoderWork.phase e).trans writing)
  | tears working _ _ none =>
    rw [working, none] at e
    cases e

/-! ## The encoder's buffers -/

/-- The directory, the shapes of its pages and the encoder's buffers. -/
structure State.Buffered (s : State) : Prop where
  directory : s.Directory
  shapes : s.ShapesInRange
  encoder : s.EncoderKept

/-- The encoder's page is of a shape in range. -/
theorem State.Directory.shape_inRange (h : s.Directory) (shapes : s.ShapesInRange) {w : EncoderWork}
    (working : s.encoder = some w) : (s.page w.handle).shape.InRange :=
  shapes _ (by rw [h.records.fills working]; nofun)

theorem Change.shapesInRange (h : Change v o s o' t) (directory : s.Directory) (kept : s.ShapesInRange) :
    t.ShapesInRange := by
  intro k used
  rcases h.page_stays k with stays | ⟨same, -, w, working, rfl⟩
  · obtain ⟨before, same⟩ := stays used
    rw [same.shape]
    exact kept k before
  · rw [same.shape]
    exact directory.shape_inRange kept working

/-- A band of a page in range has a line (R2). -/
theorem Shape.InRange.bandLines_pos {p : Shape} (h : p.InRange) {position : Nat} (inside : position < p.positions) :
    0 < p.bandLines (position / p.planes) := by
  obtain ⟨⟨planes, -⟩, -, ⟨height, -⟩, band, -⟩ := h
  refine (Shape.bandLines_bounds (by omega) (by omega) ?_).1
  exact (Nat.div_lt_iff_lt_mul planes).mpr inside

/-- The encoder begins at a position of its page, or with every position committed (R73, R74). -/
theorem EncoderWork.begin_kept {p : Shape} (range : p.InRange) {n : Nat} (most : n ≤ p.positions) (k : Handle) (stream : Nat) :
    (EncoderWork.begin k n p.positions).Kept p stream := by
  refine ⟨(Nat.zero_mul _).symm, ?_⟩
  by_cases all : n = p.positions
  · have phase : (EncoderWork.begin k n p.positions).phase = .complete := if_pos all
    rw [phase]
    rfl
  · have phase : (EncoderWork.begin k n p.positions).phase = .ready := if_neg all
    have band : (EncoderWork.begin k n p.positions).band p = n / p.planes := by
      rw [EncoderWork.band, show (EncoderWork.begin k n p.positions).expected = some n from if_neg all, Option.getD_some]
    rw [phase, band]
    exact ⟨range.bandLines_pos (by omega), fun h => absurd h (Nat.lt_irrefl 0)⟩

/-- After a commit the buffers are empty, for a position of the page or with every position committed (R72, R83). -/
theorem PageRecord.emptied_kept {r : PageRecord} (range : r.shape.InRange) (most : r.committed ≤ r.shape.positions)
    (w : EncoderWork) : (w.emptied r.encoderPhase r.expectedPosition).Kept r.shape r.streamLength := by
  refine EncoderWork.emptied_kept ?_
  unfold PageRecord.encoderPhase PageRecord.expectedPosition
  split
  · exact .inl rfl
  · next more =>
    rw [PageRecord.allCommitted_iff] at more
    exact .inr ⟨rfl, range.bandLines_pos (by rw [Option.getD_some]; omega)⟩

/-- The buffers of an encoder left alone agree with its page, whose stream is carried. -/
theorem State.EncoderKept.carried (kept : s.EncoderKept) (encoder : t.encoder = s.encoder) (after : t.Directory)
    (carries : s.Carries t) : t.EncoderKept := by
  intro w works
  have filling := after.records.fills works
  rcases carries.pages w.handle with (free | lost) | same
  · simp [free] at filling
  · simp [lost] at filling
  · rw [same.shape, same.stream]
    exact kept w (encoder ▸ works)

theorem Change.encoderKept (h : Change v o s o' t) (kept : s.Buffered) : t.EncoderKept := by
  have after := h.directory kept.directory
  have shapes := h.shapesInRange kept.directory kept.shapes
  have streams := h.carries kept.directory.linked
  have alone (e : t.encoder = s.encoder) : t.EncoderKept :=
    kept.encoder.carried e after (streams.resolve_right fun writes => writes.encoder_ne e)
  cases h with
  | @defers _ w _ working | @undefers _ w _ working =>
    intro w' works
    cases works
    exact kept.encoder w working
  | line working ready whole =>
    intro w' works
    cases works
    exact (kept.encoder _ working).takeLine ready whole
  | coded working coding =>
    intro w' works
    cases works
    exact (kept.encoder _ working).codeLine coding
  | refused working full =>
    intro w' works
    cases works
    have before := (kept.encoder _ working).2
    rw [full] at before
    exact EncoderWork.emptied_kept (.inr ⟨rfl, before.1⟩)
  | @extentsTaken _ _ w es f working full take =>
    intro w' works
    cases works
    have page := s.page_setPage w.handle { s.page w.handle with extents := (s.page w.handle).extents ++ es }
    show EncoderWork.Kept _ ((s.setPage w.handle _).page w.handle).shape ((s.setPage w.handle _).page w.handle).streamLength
    rw [page]
    exact (kept.encoder _ working).finish full es
  | wrote working writing left =>
    intro w' works
    cases works
    exact (kept.encoder _ working).wrote writing left
  | @committed _ _ w x working writing =>
    intro w' works
    cases works
    have page := s.page_setPage w.handle ((s.page w.handle).commitOne x.length)
    have range := kept.directory.shape_inRange kept.shapes working
    have most := (after.records.records w.handle).committed.1
    have here : State.page { s.setPage w.handle ((s.page w.handle).commitOne x.length) with
        encoder := some (w.emptied ((s.page w.handle).commitOne x.length).encoderPhase
          ((s.page w.handle).commitOne x.length).expectedPosition) } w.handle = (s.page w.handle).commitOne x.length := page
    rw [here] at most
    show EncoderWork.Kept _ (State.page _ w.handle).shape (State.page _ w.handle).streamLength
    rw [here]
    exact PageRecord.emptied_kept (r := (s.page w.handle).commitOne x.length) range most w
  | resumes k ok =>
    intro w' works
    cases works
    have page := s.page_setPage k { s.page k with state := .filling }
    have range := kept.shapes k (by simp [(continueRefusal_none ok).1])
    show EncoderWork.Kept _ (State.page (s.continueAt k) k).shape (State.page (s.continueAt k) k).streamLength
    rw [show (s.continueAt k).page k = _ from page]
    exact EncoderWork.begin_kept range (kept.directory.records.records k).committed.1 k _
  | seals | abandons => exact nofun
  | tears =>
    intro w' works
    rw [State.tear_encoder] at works
    cases works
  | clears => exact alone rfl
  | _ => exact alone (by simp)

theorem Change.buffered (h : Change v o s o' t) (kept : s.Buffered) : t.Buffered :=
  ⟨h.directory kept.directory, h.shapesInRange kept.directory kept.shapes, h.encoderKept kept⟩

theorem State.Buffered.openAt (h : s.Buffered) {q : OpenParams} (good : q.InRange) {k : Handle}
    (free : (s.page k).state = .free) (idle : s.compose.state = .idle) : (s.openAt k q).Buffered := by
  have range := openedRecord_inRange good
  refine ⟨h.directory.openAt free idle, fun j used => ?_, fun w hw => ?_⟩
  · rw [State.page_openAt] at used ⊢
    split at used
    · next e => rwa [if_pos e]
    · next e => rw [if_neg e]; exact h.shapes j used
  · cases hw
    show EncoderWork.Kept _ ((s.openAt k q).page k).shape ((s.openAt k q).page k).streamLength
    rw [State.page_openAt, if_pos rfl]
    exact EncoderWork.begin_kept range (Nat.zero_le _) k _

theorem State.reset_buffered (rest : List Instr) (draws : Vector Nat 8) :
    State.Buffered { State.reset with pending := rest, undefinedDraws := draws } :=
  ⟨State.reset_directory rest draws, fun k used => absurd (congrArg _ (State.page_reset k)) used, nofun⟩

theorem State.Buffered.begun (h : s.Buffered) (i : Instr) : (s.begun i).Buffered := by
  refine ⟨h.directory.begun i, ?_, ?_⟩ <;> rw [State.begun_eq]
  · exact h.shapes
  · exact h.encoder

theorem exec_keeps_buffered {i : Instr} (kept : s.Buffered) (h : exec i s = .next t) : t.Buffered :=
  exec_keeps (J := fun _ u => u.Buffered) h kept State.reset_buffered (fun change j => change.buffered j)
    (fun _ _ _ good free idle j => j.openAt good free idle) (kept.begun i)

end Sys2Proof.Machine

/-! # Every step keeps the ranges and the forms -/

namespace Sys2Proof.Machine

variable {s : State}

/-! ## The commands that wait do not count -/

theorem State.DownPortsQuiet.waiting (h : s.DownPortsQuiet) (rest : List Instr) :
    State.DownPortsQuiet { s with pending := rest } := h.of_ports rfl rfl rfl

theorem State.OneReplyEach.waiting (h : s.OneReplyEach) (rest : List Instr) :
    State.OneReplyEach { s with pending := rest } :=
  (State.accounts_none _).mp (((State.accounts_none s).mpr h).of_ports (fun p => by cases p <;> exact ⟨rfl, rfl⟩)
    fun w d hw hd => ⟨w, hw, hd⟩)

theorem State.Directory.waiting (h : s.Directory) (rest : List Instr) : State.Directory { s with pending := rest } :=
  ⟨⟨h.linked.compose, ⟨h.linked.press.channel, h.linked.press.delivery⟩, ⟨h.linked.proof.channel, h.linked.proof.view⟩⟩,
    h.records.congr rfl rfl rfl (fun _ => rfl) rfl⟩

theorem State.Buffered.waiting (h : s.Buffered) (rest : List Instr) : State.Buffered { s with pending := rest } :=
  ⟨h.directory.waiting rest, h.shapes, h.encoder⟩

end Sys2Proof.Machine

section
open Sys2Proof Sys2Proof.Machine

/-- Settles O57: each invariant is kept by every change, and so by every command and step. -/
theorem stepKeepsRangesAndForms : Obligations.StepKeepsRangesAndForms := by
  intro s t h
  refine ⟨fun kept => ?_, fun kept => ?_, fun kept => ?_, fun kept => ?_, fun kept => ?_, fun kept => ?_, fun kept => ?_,
    fun kept => ?_, fun directory shapes => ?_, fun blocks directory shapes encoder => ?_⟩
  · exact step_keeps h kept id (fun _ => id) fun _ _ => exec_keeps_debtInRange
  · exact step_keeps h kept id (fun _ => id) fun _ _ => exec_keeps_queueBounded
  · exact step_keeps h kept id (fun _ => id) fun _ _ => exec_keeps_readingInRange
  · exact step_keeps h kept id (fun _ => id) fun _ _ => exec_keeps_late
  · exact step_keeps h kept id (fun _ => id) fun _ _ => exec_keeps_storeWf
  · exact step_keeps h kept id (fun _ => id) fun _ _ => exec_keeps_freeSetWf
  · exact step_keeps h kept id (fun rest quiet => quiet.waiting rest) fun _ _ => exec_keeps_downPortsQuiet
  · exact step_keeps h kept id (fun rest one => one.waiting rest) fun _ _ => exec_keeps_oneReplyEach
  · exact step_keeps (J := fun u => u.DirectoryKept ∧ u.ShapesInRange) h ⟨directory, shapes⟩ And.right (fun _ => id)
      fun _ _ ⟨directory, shapes⟩ => exec_keeps_shapesInRange directory shapes
  · have linked := State.linked_of_agree blocks directory
    have records := (State.directoryKept_iff.mp directory).1
    exact (step_keeps (J := State.Buffered) h ⟨⟨linked, records⟩, shapes, encoder⟩ id (fun rest j => j.waiting rest)
      fun _ _ => exec_keeps_buffered).encoder

end

/-! # What keeps every transfer inside the store: extents, damage and channels -/

namespace Sys2Proof.Machine

variable {v : Vector PageRecord 256} {o o' : Option Port} {s t : State}

/-! ## Extents and streams (R4) -/

/-- A commit is under way on a FILLING page alone. -/
theorem State.inFlight_of_not_filling (records : s.RecordsKept allCounted) {k : Handle} (other : (s.page k).state ≠ .filling) :
    s.inFlight k = (0, []) := by
  cases working : s.encoder with
  | none => exact State.inFlight_of_none working k
  | some w =>
    by_cases writing : ∃ x, w.phase = .committing (.writing x)
    · obtain ⟨x, writing⟩ := writing
      rw [State.inFlight_of_writing working writing, if_neg]
      rintro rfl
      exact other (records.fills working)
    · exact State.inFlight_of_still working (fun x e => writing ⟨x, e⟩) k

theorem State.extentsCover_iff {k : Handle} {own taken : List Nat} {stream more : Nat} (extents : (s.page k).extents = own)
    (length : (s.page k).streamLength = stream) (inFlight : s.inFlight k = (more, taken)) :
    s.ExtentsCover k ↔ own.length = (stream + 65535) / 65536 + taken.length ∧
      own.length = (stream + more + 65535) / 65536 := by
  unfold State.ExtentsCover
  dsimp only
  rw [extents, length, inFlight]

/-- A page with no stream and no commit under way needs no extents. -/
theorem State.extentsCover_of_empty {k : Handle} (extents : (s.page k).extents = []) (stream : (s.page k).streamLength = 0)
    (inFlight : s.inFlight k = (0, [])) : s.ExtentsCover k := by
  rw [State.extentsCover_iff extents stream inFlight]
  exact ⟨rfl, rfl⟩

theorem State.extentsCover_of_gone (records : s.RecordsKept allCounted) {k : Handle}
    (gone : (s.page k).state = .free ∨ (s.page k).state = .lost) : s.ExtentsCover k := by
  have still : (s.page k).state ≠ .filling := by rcases gone with e | e <;> simp [e]
  have inFlight := State.inFlight_of_not_filling records still
  obtain ⟨free, lost⟩ := (records.records k).state
  rcases gone with e | e
  · exact State.extentsCover_of_empty (by rw [free e]; rfl) (by rw [free e]; rfl) inFlight
  · exact State.extentsCover_of_empty (lost e).1 (lost e).2 inFlight

theorem State.ExtentsCover.congr {k : Handle} (h : s.ExtentsCover k) (stream : (t.page k).streamLength = (s.page k).streamLength)
    (extents : (t.page k).extents = (s.page k).extents) (inFlight : t.inFlight k = s.inFlight k) : t.ExtentsCover k := by
  unfold State.ExtentsCover at *
  dsimp only
  rw [stream, extents, inFlight]
  exact h

theorem State.Writes.same_elsewhere (h : s.Writes t) {k : Handle} (other : ∀ w, s.encoder = some w → w.handle ≠ k) :
    t.page k = s.page k ∧ t.inFlight k = (0, []) ∧ s.inFlight k = (0, []) := by
  have page {w : EncoderWork} {r : PageRecord} (working : s.encoder = some w) (pages : t.pages = (s.setPage w.handle r).pages) :
      t.page k = s.page k := by
    rw [State.page_congr pages, State.page_setPage_if, if_neg (other w working).symm]
  cases h with
  | takes working full taken pages encoder handle writing =>
    exact ⟨page working pages, (State.inFlight_of_writing encoder writing k).trans (if_neg (handle ▸ other _ working)),
      State.inFlight_of_still working (by rw [full]; nofun) k⟩
  | commits working writing pages encoder =>
    exact ⟨page working pages, State.inFlight_of_still encoder (by exact PageRecord.encoderPhase_still _) k,
      (State.inFlight_of_writing working writing k).trans (if_neg (other _ working))⟩
  | tears working writing pages encoder =>
    exact ⟨page working pages, State.inFlight_of_none encoder k,
      (State.inFlight_of_writing working writing k).trans (if_neg (other _ working))⟩

/-- A commit's take, its completion and its cancelling keep the extents at the stream's length (R81, R83, R84). -/
theorem State.Writes.extentsCover (h : s.Writes t) (kept : ∀ k, s.ExtentsCover k) (k : Handle) : t.ExtentsCover k := by
  by_cases here : ∃ w, s.encoder = some w ∧ w.handle = k
  · obtain ⟨w0, working0, rfl⟩ := here
    have before := kept w0.handle
    have page {r : PageRecord} (pages : t.pages = (s.setPage w0.handle r).pages) : t.page w0.handle = r :=
      (State.page_congr pages _).trans (s.page_setPage _ _)
    cases h with
    | @takes w w' x working full taken pages encoder handle writing =>
      cases working0.symm.trans working
      have extents : (t.page w0.handle).extents = (s.page w0.handle).extents ++ x.extentsTaken := by rw [page pages]
      have stream : (t.page w0.handle).streamLength = (s.page w0.handle).streamLength := by rw [page pages]
      rw [State.extentsCover_iff rfl rfl (State.inFlight_of_still working (by rw [full]; nofun) _), List.length_nil] at before
      rw [State.extentsCover_iff extents stream ((State.inFlight_of_writing encoder writing _).trans (if_pos handle)),
        List.length_append, taken, extentsNeeded, ceilDiv]
      omega
    | @commits w x working writing pages encoder =>
      cases working0.symm.trans working
      have extents : (t.page w0.handle).extents = (s.page w0.handle).extents := by rw [page pages]; rfl
      have stream : (t.page w0.handle).streamLength = (s.page w0.handle).streamLength + x.length := by rw [page pages]; rfl
      rw [State.extentsCover_iff rfl rfl ((State.inFlight_of_writing working writing _).trans (if_pos rfl))] at before
      rw [State.extentsCover_iff extents stream (State.inFlight_of_still encoder (by exact PageRecord.encoderPhase_still _) _),
        List.length_nil]
      omega
    | @tears w x working writing pages encoder =>
      cases working0.symm.trans working
      have extents : (t.page w0.handle).extents = (s.page w0.handle).extents.take
          ((s.page w0.handle).extents.length - x.extentsTaken.length) := by rw [page pages]
      have stream : (t.page w0.handle).streamLength = (s.page w0.handle).streamLength := by rw [page pages]
      rw [State.extentsCover_iff rfl rfl ((State.inFlight_of_writing working writing _).trans (if_pos rfl))] at before
      rw [State.extentsCover_iff extents stream (State.inFlight_of_none encoder _), List.length_take, List.length_nil]
      omega
  · obtain ⟨page, after, before⟩ := h.same_elsewhere fun w working e => here ⟨w, working, e⟩
    exact (kept k).congr (by rw [page]) (by rw [page]) (after.trans before.symm)

theorem Change.extentsCover (h : Change v o s o' t) (directory : s.Directory) (kept : ∀ k, s.ExtentsCover k) (k : Handle) :
    t.ExtentsCover k := by
  have after := h.directory directory
  rcases h.carries directory.linked with carries | writes
  · rcases carries.pages k with gone | same
    · exact State.extentsCover_of_gone after.records gone
    · exact (kept k).congr same.stream same.extents (carries.inFlight k)
  · exact writes.extentsCover kept k

/-! ## Damage (R12) -/

/-- The record has the damage mark it had, or none. -/
def PageRecord.Bears (r r' : PageRecord) : Prop := r'.firstDamaged = none ∨ r'.firstDamaged = r.firstDamaged

theorem PageRecord.Bears.refl (r : PageRecord) : r.Bears r := .inr rfl

theorem PageRecord.Bears.trans {r r' r'' : PageRecord} (h : r.Bears r') (h' : r'.Bears r'') : r.Bears r'' := by
  rcases h' with none | same
  · exact .inl none
  · exact h.imp same.trans same.trans

theorem PageRecord.bears_afterRest (kept : List Nat) (r : PageRecord) : r.Bears (r.afterRest kept) := by
  unfold PageRecord.afterRest
  split <;> exact .inr rfl

theorem PageRecord.bears_deviceReset (r : PageRecord) : r.Bears r.deviceReset := by
  unfold PageRecord.deviceReset
  split
  · exact .inl rfl
  · exact .inr rfl

theorem State.bears_record {k : Handle} {r : PageRecord} (bears : (s.page k).Bears r)
    (pages : t.pages = (s.setPage k r).pages) (j : Handle) : (s.page j).Bears (t.page j) := by
  rw [State.page_congr pages, State.page_setPage_if]
  split
  · next e => exact e ▸ bears
  · exact .refl _

theorem State.bears_dropRefs (s : State) (h : Handle) (n : Nat) (k : Handle) :
    (s.page k).Bears ((s.dropRefs h n).page k) := by
  rcases s.dropRefs_cases h n with ⟨-, e⟩ | ⟨-, -, -, e⟩ | ⟨-, -, e⟩ <;> rw [e]
  · exact .refl _
  · exact State.bears_record (k := h) (r := .free) (.inl rfl) rfl k
  · exact State.bears_record (k := h) (r := (s.page h).dropRefs n) (.inr rfl) rfl k

theorem State.bears_removeHead (s : State) (k : Handle) : (s.page k).Bears (s.removeHead.page k) := by
  unfold State.removeHead
  split
  · exact .refl _
  · exact State.bears_dropRefs { s with queue := _ } _ _ k

theorem State.bears_of_pages (pages : t.pages = s.pages) (k : Handle) : (s.page k).Bears (t.page k) := by
  rw [State.page_congr pages]
  exact .refl _

/-- A decode channel decodes a plane-band of this band of the page. -/
def State.Decodes (s : State) (k : Handle) (band : Nat) : Prop :=
  (∃ c j plane work planes, s.pressChannel = some c ∧ c.buffer j = .decoding band plane work planes ∧ c.handle = k) ∨
    ∃ c, s.proofChannel = some c ∧ c.band = band ∧ c.handle = k

/-- A page's damage mark stays or goes, but for a report of a band that a channel decodes (R95, R101). -/
theorem Change.bears (h : Change v o s o' t) (k : Handle) :
    (s.page k).Bears (t.page k) ∨ ∃ n, t.page k = (s.page k).markDamaged n ∧ s.Decodes k n := by
  cases h with
  | @extentsTaken _ _ w es =>
    exact .inl (State.bears_record (k := w.handle)
      (r := { s.page w.handle with extents := (s.page w.handle).extents ++ es }) (.inr rfl) rfl k)
  | @committed _ _ w x =>
    exact .inl (State.bears_record (k := w.handle) (r := (s.page w.handle).commitOne x.length) (.inr rfl) rfl k)
  | resumes h => exact .inl (State.bears_record (k := h) (r := { s.page h with state := .filling }) (.inr rfl) rfl k)
  | @seals _ _ w =>
    exact .inl (State.bears_record (k := w.handle) (r := { s.page w.handle with state := .sealed }) (.inr rfl) rfl k)
  | @abandons _ _ w => exact .inl (State.bears_record (k := w.handle) (r := .free) (.inl rfl) rfl k)
  | tears =>
    cases hw : s.encoder with
    | none => exact .inl (by rw [State.tear_none hw]; exact .refl _)
    | some w =>
      rw [State.tear_eq hw]
      exact .inl (State.bears_record (k := w.handle) (r := { s.page w.handle with state := .torn, extents := _ })
        (.inr rfl) rfl k)
  | enqueues h n =>
    exact .inl (State.bears_record (k := h) (r := { s.page h with references := (s.page h).references + n }) (.inr rfl) rfl k)
  | rebinds old new =>
    refine .inl (.trans (r' := (State.addRefs { s with queue := s.reboundQueue old new } new (s.rebindCount old new)).page k)
      (State.bears_record (k := new)
        (r := { s.page new with references := (s.page new).references + s.rebindCount old new }) (.inr rfl) rfl k)
      (State.bears_dropRefs _ old (s.rebindCount old new) k))
  | skips => exact .inl (s.bears_removeHead k)
  | marksPending h =>
    exact .inl (State.bears_record (k := h) (r := { s.page h with releasePending := true }) (.inr rfl) rfl k)
  | frees h => exact .inl (State.bears_record (k := h) (r := .free) (.inl rfl) rfl k)
  | holds h reason =>
    exact .inl (State.bears_record (k := h) (r := { s.page h with holdReason := some reason }) (.inr rfl) rfl k)
  | lifts h => exact .inl (State.bears_record (k := h) (r := { s.page h with holdReason := none }) (.inr rfl) rfl k)
  | rests =>
    refine .inl ?_
    rw [show s.completeRest.page k = (s.losePages s.retainedSegments).page k from rfl, State.page_losePages]
    exact PageRecord.bears_afterRest _ _
  | clears =>
    refine .inl ?_
    rw [State.page_resetDirectory]
    exact PageRecord.bears_deviceReset _
  | @pressDamages _ _ c j band plane work planes active decoding =>
    by_cases e : k = c.handle
    · exact .inr ⟨band, e ▸ s.page_setPage .., .inl ⟨c, j, plane, work, planes, active, decoding, e.symm⟩⟩
    · exact .inl (.inr (by rw [State.reportDamage, State.updatePage, State.page_setPage_if, if_neg e]))
  | @proofDamages _ _ c active =>
    by_cases e : k = c.handle
    · exact .inr ⟨c.band, e ▸ s.page_setPage .., .inr ⟨c, active, rfl, e.symm⟩⟩
    · exact .inl (.inr (by rw [State.reportDamage, State.updatePage, State.page_setPage_if, if_neg e]))
  | endsPress e resume =>
    refine .inl ?_
    cases hd : s.delivery with
    | none => rw [State.endPress_none hd]; exact .refl _
    | some d =>
      rw [State.endPress_some hd]
      show (s.page k).Bears ((s.afterPress e).page k)
      unfold State.afterPress
      split
      · exact s.bears_removeHead k
      · exact .refl _
  | endsView =>
    refine .inl ?_
    cases hx : s.view with
    | none => rw [State.endView_none hx]; exact .refl _
    | some x => rw [State.endView_some hx]; exact s.bears_dropRefs _ 1 k
  | dropsView =>
    refine .inl ?_
    cases hx : s.view with
    | none => rw [State.dropView_none hx]; exact .refl _
    | some x => rw [State.dropView_eq hx]; exact s.bears_dropRefs _ 1 k
  | views q =>
    exact .inl (State.bears_record (k := q.handle)
      (r := { s.page q.handle with references := (s.page q.handle).references + 1 }) (.inr rfl) rfl k)
  | defers => exact .inl (.refl _)
  | _ => exact .inl (State.bears_of_pages (by simp) k)

/-- Damage is marked at a band of the page (R12). -/
def State.DamageKept (s : State) : Prop := ∀ k n, (s.page k).firstDamaged = some n → n < (s.page k).shape.bands

/-- The decode channels decode bands of their pages. -/
theorem State.ChannelsPlaced.decodes (h : s.ChannelsPlaced) (linked : s.Linked) {k : Handle} {n : Nat} (decodes : s.Decodes k n) :
    n < (s.page k).shape.bands := by
  obtain ⟨press, proof⟩ := h
  rcases decodes with ⟨c, j, plane, work, planes, active, decoding, rfl⟩ | ⟨c, active, rfl, rfl⟩
  · obtain ⟨shape, placed⟩ := press c active
    exact shape ▸ (placed j n plane work planes decoding).1.1
  · obtain ⟨x, view⟩ := Option.isSome_iff_exists.mp (linked.proof.channel (by simp [active]))
    obtain ⟨shape, -, -, -, here, -⟩ := proof c x active view
    exact shape ▸ here.1

theorem lowerOf_le (n : Nat) (m : Option Nat) : lowerOf n m ≤ n := by
  cases m with
  | none => exact Nat.le_refl n
  | some m => exact Nat.min_le_left n m

theorem Change.damageKept (h : Change v o s o' t) (directory : s.Directory) (channels : s.ChannelsPlaced)
    (kept : s.DamageKept) : t.DamageKept := by
  intro k n damaged
  have used : (t.page k).state ≠ .free := fun free => by
    rw [((h.directory directory).records.records k).state.1 free] at damaged
    cases damaged
  have shape : (t.page k).shape = (s.page k).shape := by
    rcases h.page_stays k with stays | ⟨same, -⟩
    · exact (stays used).2.shape
    · exact same.shape
  rw [shape]
  rcases h.bears k with (none | same) | ⟨band, marked, decodes⟩
  · cases none.symm.trans damaged
  · exact kept k n (same ▸ damaged)
  · rw [marked] at damaged
    cases damaged
    exact Nat.lt_of_le_of_lt (lowerOf_le _ _) (channels.decodes directory.linked decodes)

end Sys2Proof.Machine

/-! # What keeps every transfer inside the store: the decode channels -/

namespace Sys2Proof.Machine

variable {v : Vector PageRecord 256} {o o' : Option Port} {s t : State}

/-! ## The pages that the channels read -/

/-- A page that was not FILLING and still holds a stream holds the stream it held. -/
theorem Change.stream_same (h : Change v o s o' t) (directory : s.Directory) {k : Handle}
    (before : (s.page k).state ≠ .filling) (found : (t.page k).state ≠ .free) (kept : (t.page k).state ≠ .lost) :
    (s.page k).SameStream (t.page k) := by
  rcases h.carries directory.linked with carries | writes
  · exact (carries.pages k).resolve_left fun gone => gone.elim found kept
  · rw [(writes.same_elsewhere fun w working e => before (by rw [← e]; exact directory.records.fills working)).1]
    exact .refl _

/-- The page under a press channel that goes on keeps its stream. -/
theorem Change.pressed_same (h : Change v o s o' t) (directory : s.Directory) {c c' : PressChannel}
    (before : s.pressChannel = some c) (after : t.pressChannel = some c') (handle : c'.handle = c.handle) :
    (s.page c.handle).SameStream (t.page c.handle) := by
  have reads := directory.records.pressed directory.linked before
  have reading := (h.directory directory).records.pressed (h.directory directory).linked after
  rw [handle] at reading
  refine h.stream_same directory ?_ ?_ ?_
  · rcases reads with e | e <;> simp [e]
  · rcases reading with e | e <;> simp [e]
  · rcases reading with e | e <;> simp [e]

/-- The page under a proof channel that goes on keeps its stream. -/
theorem Change.proofed_same (h : Change v o s o' t) (directory : s.Directory) {c c' : ProofChannel}
    (before : s.proofChannel = some c) (after : t.proofChannel = some c') (handle : c'.handle = c.handle) :
    (s.page c.handle).SameStream (t.page c.handle) := by
  have reads := directory.records.proofed directory.linked before
  have reading := (h.directory directory).records.proofed (h.directory directory).linked after
  rw [handle] at reading
  refine h.stream_same directory ?_ ?_ ?_
  · rcases reads with e | e | e <;> simp [e]
  · rcases reading with e | e | e <;> simp [e]
  · rcases reading with e | e | e <;> simp [e]

/-! ## The press channel (R98, R99) -/

/-- The press channel decodes plane-bands of its page. -/
def State.PressPlaced (s : State) : Prop :=
  ∀ c, s.pressChannel = some c → c.shape = (s.page c.handle).shape ∧ c.Placed (s.page c.handle).streamLength

/-- The proof channel decodes a plane-band of its page, under a view of the page's bands and planes. -/
def State.ProofPlaced (s : State) : Prop :=
  ∀ c x, s.proofChannel = some c → s.view = some x →
    c.shape = (s.page c.handle).shape ∧ x.Within c.shape ∧ c.Placed (s.page c.handle).streamLength

theorem State.channelsPlaced_iff : s.ChannelsPlaced ↔ s.PressPlaced ∧ s.ProofPlaced := by
  refine and_congr .rfl (forall_congr' fun c => forall_congr' fun x => imp_congr_right fun _ => imp_congr_right fun _ => ?_)
  unfold ViewRecord.Within ProofChannel.Placed
  rw [and_assoc, and_assoc]

theorem PressChannel.begin_placed {p : Shape} (planes : 1 ≤ p.planes) (k : Handle) (band stream : Nat) :
    (PressChannel.begin k p band).Placed stream :=
  PressChannel.Placed.assignAll (fun j _ _ _ _ e => by cases j <;> cases e) planes

/-- A channel left alone stays placed, as its page keeps its stream. -/
theorem State.PressPlaced.carried (kept : s.PressPlaced) (h : Change v o s o' t) (directory : s.Directory)
    (alone : t.pressChannel = s.pressChannel) : t.PressPlaced := by
  intro c active
  have same := h.pressed_same directory (alone ▸ active) active rfl
  rw [same.shape, same.stream]
  exact kept c (alone ▸ active)

theorem State.pressPlaced_of_none (idle : s.pressChannel = none) : s.PressPlaced := by
  intro c active
  cases idle.symm.trans active

theorem Change.pressPlaced (h : Change v o s o' t) (directory : s.Directory) (shapes : s.ShapesInRange)
    (kept : s.PressPlaced) : t.PressPlaced := by
  have alone := kept.carried h directory
  cases h with
  | begins k startBand lead trail window head ok =>
    intro c active
    cases active
    have range := shapes k (by simp [(startRefusal_none ok).1])
    refine ⟨?_, by exact PressChannel.begin_placed range.1.1 _ _ _⟩
    rw [PressChannel.begin_handle, PressChannel.begin_shape]
    rfl
  | @channel _ _ c c' active handle shape placed =>
    intro c1 active1
    cases active1
    obtain ⟨same, before⟩ := kept c active
    have range := shapes c.handle (by rcases directory.records.pressed directory.linked active with e | e <;> simp [e])
    have within : 1 ≤ c.shape.planes := by rw [same]; exact range.1.1
    show c'.shape = (s.page c'.handle).shape ∧ c'.Placed (s.page c'.handle).streamLength
    rw [handle]
    exact ⟨shape.trans same, placed within before⟩
  | endsPress e resume =>
    cases hd : s.delivery with
    | none => exact alone (by rw [State.endPress_none hd])
    | some d =>
      rw [State.endPress_some hd]
      exact State.pressPlaced_of_none rfl
  | dropsPress => exact State.pressPlaced_of_none rfl
  | defers | resumes | clears => exact alone rfl
  | _ => exact alone (by simp)

/-! ## The proof channel (R103, R104) -/

theorem maskPlanes_ne_nil {mask : Byte} (some : mask ≠ 0) : maskPlanes mask ≠ [] := by
  intro none
  refine some (BitVec.eq_of_getLsbD_eq fun j hj => ?_)
  have := List.filter_eq_nil_iff.mp none j (List.mem_range.mpr hj)
  simpa using this

/-- The usable end of a page lies in it (R136). -/
theorem PageRecord.usableEnd_le {r : PageRecord} (committed : r.committed ≤ r.shape.positions)
    (damage : ∀ n, r.firstDamaged = some n → n < r.shape.bands) : r.usableEnd ≤ r.shape.bands := by
  unfold PageRecord.usableEnd
  split
  · exact Nat.le_refl _
  · cases e : r.firstDamaged with
    | none => exact Nat.zero_le _
    | some n => exact Nat.le_of_lt (damage n e)
  · exact (lowerOf_le _ _).trans (Nat.div_le_of_le_mul (by rw [Nat.mul_comm]; exact committed))
  · exact Nat.zero_le _

/-- A view that is not refused lies in its page (R136, R138). -/
theorem ViewRecord.begin_within {q : ViewParams} {r : PageRecord} (ok : viewRefusal q r = none)
    (usable : r.usableEnd ≤ r.shape.bands) : (ViewRecord.begin q r).Within r.shape := by
  obtain ⟨-, -, mask, planes, -⟩ := viewRefusal_none ok
  exact ⟨(Nat.min_le_right _ _).trans usable, planes, maskPlanes_ne_nil mask⟩

theorem ViewRecord.Within.lowestPlane_lt {x : ViewRecord} {p : Shape} (h : x.Within p) : lowestPlane x.planeMask < p.planes := by
  obtain ⟨-, inside, some⟩ := h
  refine inside _ ?_
  obtain ⟨j, l, e⟩ := List.exists_cons_of_ne_nil some
  rw [e]
  exact List.mem_cons_self

theorem ProofChannel.begin_placed {q : ViewParams} {r : PageRecord} (ok : viewRefusal q r = none)
    (usable : r.usableEnd ≤ r.shape.bands) (stream : Nat) :
    (ProofChannel.begin (ViewRecord.begin q r)).Placed stream := by
  obtain ⟨-, -, -, -, first⟩ := viewRefusal_none ok
  refine ⟨⟨Nat.lt_of_lt_of_le first usable, (ViewRecord.begin_within ok usable).lowestPlane_lt⟩, fun work e => ?_⟩
  cases e
  exact Decoding.entrySound_initial _ _

theorem State.ProofPlaced.carried (kept : s.ProofPlaced) (h : Change v o s o' t) (directory : s.Directory)
    (alone : t.proofChannel = s.proofChannel) (view : t.view = s.view) : t.ProofPlaced := by
  intro c x active running
  have same := h.proofed_same directory (alone ▸ active) active rfl
  rw [same.shape, same.stream]
  exact kept c x (alone ▸ active) (view ▸ running)

theorem State.proofPlaced_of_none (idle : s.proofChannel = none) : s.ProofPlaced := by
  intro c x active
  cases idle.symm.trans active

theorem Change.proofPlaced (h : Change v o s o' t) (directory : s.Directory)
    (damage : s.DamageKept) (kept : s.ProofPlaced) : t.ProofPlaced := by
  have alone := kept.carried h directory
  cases h with
  | views q ok =>
    intro c x active running
    cases active
    cases running
    have usable := PageRecord.usableEnd_le (directory.records.records q.handle).committed.1
      (damage q.handle)
    refine ⟨?_, ViewRecord.begin_within ok usable, ProofChannel.begin_placed ok usable _⟩
    have page := congrArg PageRecord.shape (s.page_setPage q.handle
      { s.page q.handle with references := (s.page q.handle).references + 1 })
    exact page.symm
  | @view _ _ x x' running handle range mask =>
    intro c x1 active view
    cases view
    obtain ⟨shape, within, placed⟩ := kept c x active running
    refine ⟨shape, ?_, placed⟩
    unfold ViewRecord.Within at *
    rwa [range, mask]
  | @proofChannel _ _ c c' active handle shape placed =>
    intro c1 x active1 running
    cases active1
    obtain ⟨same, within, before⟩ := kept c x active running
    show c'.shape = (s.page c'.handle).shape ∧ x.Within c'.shape ∧ c'.Placed (s.page c'.handle).streamLength
    rw [handle, shape]
    exact ⟨same, within, placed x running within before⟩
  | endsView e resume =>
    cases hx : s.view with
    | none => exact alone (by rw [State.endView_none hx]) (by rw [State.endView_none hx])
    | some x =>
      rw [State.endView_some hx]
      exact State.proofPlaced_of_none rfl
  | dropsView =>
    cases hx : s.view with
    | none =>
      rw [State.dropView_none hx]
      exact State.proofPlaced_of_none rfl
    | some x =>
      rw [State.dropView_eq hx]
      exact State.proofPlaced_of_none rfl
  | clears => exact State.proofPlaced_of_none rfl
  | defers | resumes => exact alone rfl rfl
  | _ => exact alone (by simp) (by simp)

end Sys2Proof.Machine

/-! # Every transfer is at a unit of the store -/

namespace Sys2Proof.Machine

variable {v : Vector PageRecord 256} {o o' : Option Port} {s t : State}

/-! ## Units (R27, R28, R32, R33) -/

theorem Shape.InRange.bands_le {p : Shape} (h : p.InRange) : p.bands ≤ 2048 := by
  obtain ⟨-, -, ⟨-, height⟩, band, -⟩ := h
  unfold Shape.bands ceilDiv
  rcases band with e | e <;> rw [e] <;> omega

theorem Shape.InRange.positions_le {p : Shape} (h : p.InRange) : p.positions ≤ 12288 :=
  Nat.mul_le_mul h.bands_le h.1.2

theorem Shape.InRange.position_lt {p : Shape} (h : p.InRange) {band plane : Nat} (inside : p.Has band plane) :
    band * p.planes + plane < 12288 := by
  obtain ⟨low, small⟩ := inside
  calc band * p.planes + plane < band * p.planes + p.planes := Nat.add_lt_add_left small _
    _ = (band + 1) * p.planes := (Nat.succ_mul ..).symm
    _ ≤ p.positions := Nat.mul_le_mul_right _ low
    _ ≤ 12288 := h.positions_le

/-- The index entry of a position lies in the index region (R28). -/
theorem namesUnit_entry (k : Handle) {n : Nat} (inside : n < 12288) : namesUnit (some (unitOfByte (entryByte k n))) := by
  refine ⟨_, rfl, ?_⟩
  have := k.isLt
  unfold UnitAddr.present unitOfByte entryByte
  rw [Bool.and_eq_true, decide_eq_true_iff, decide_eq_true_iff]
  dsimp only
  omega

theorem namesUnit_stream {extents : List Nat} (small : ∀ e ∈ extents, e ≤ 32767) {u : Nat}
    (inside : u / 256 < extents.length) : namesUnit (streamUnit extents u) := by
  refine ⟨⟨extents[u / 256], u % 256⟩, by rw [streamUnit, List.getElem?_eq_getElem inside, Option.map_some], ?_⟩
  have := small _ (List.getElem_mem inside)
  simp only [UnitAddr.present, Bool.and_eq_true, decide_eq_true_eq]
  omega

theorem State.ExtentsPlaced.extent_le (h : s.ExtentsPlaced) {k : Handle} {e : Nat} (owned : e ∈ (s.page k).extents) :
    e ≤ 32767 := by
  have placed := h.1 e
  have listed := Nat.lt_of_lt_of_le (List.count_pos_iff.mpr owned) (s.count_le_lists k e)
  rw [State.placesOf_eq] at placed
  split at placed
  · split at placed <;> omega
  · split at placed <;> omega

/-- A unit of a page's stream, or of the stored bytes of a commit under way, is a unit of the store. -/
theorem State.namesUnit_streamUnit (placed : s.ExtentsPlaced) {k : Handle} (cover : s.ExtentsCover k) {u : Nat}
    (inside : u * 256 < (s.page k).streamLength + (s.inFlight k).1) : namesUnit (streamUnit (s.page k).extents u) := by
  refine namesUnit_stream (fun e owned => placed.extent_le owned) ?_
  rw [cover.2]
  omega

/-- The units that a plane-band spans begin before its end (R33). -/
theorem unit_lt_end {offset length n : Nat} (some : 1 ≤ length) (inside : n < unitCount offset length) :
    (offset / 256 + n) * 256 < offset + length := by
  unfold unitCount at inside
  omega

/-- The next read of a plane-band with a sound entry is at a unit of the store (R92). -/
theorem Decoding.nextRead_named (placed : s.ExtentsPlaced) {k : Handle} (cover : s.ExtentsCover k) {d : Decoding}
    {position raw : Nat} (inside : position < 12288) (sound : d.EntrySound raw (s.page k).streamLength) {slot : DecodeSlot}
    {q : ReadReq} (next : d.nextRead slot k position (s.page k).extents = some q) : namesUnit q.addr := by
  unfold Decoding.nextRead at next
  split at next
  · cases next
    exact namesUnit_entry k inside
  · next e entry =>
    obtain ⟨some, -, fits, -⟩ := sound e entry
    split at next
    · next more =>
      cases next
      have := unit_lt_end some more
      exact State.namesUnit_streamUnit placed cover (by omega)
    · cases next

/-- The next write of a commit is at a unit of the store (R82). -/
theorem commitWrite_named {w : EncoderWork} {x : CommitOutcome} {r : PageRecord} {q : WriteReq}
    (position : w.expected.getD 0 < 12288) (count : x.writesRemaining ≤ unitCount x.offset x.length + 1)
    (stored : ∀ n < unitCount x.offset x.length, namesUnit (streamUnit r.extents (x.offset / 256 + n)))
    (next : commitWrite w x r = some q) : namesUnit q.addr := by
  unfold commitWrite at next
  split at next
  · cases next
  · cases next
    exact namesUnit_entry _ position
  · cases next
    exact stored _ (by omega)

/-! ## What the blocks ask for -/

/-- What an event keeps so that no transfer leaves the store. -/
structure State.Served (s : State) : Prop where
  allotted : s.Allotted
  shapes : s.ShapesInRange
  encoder : s.EncoderKept
  units : s.UnitsKept

theorem State.Served.buffered (h : s.Served) : s.Buffered := ⟨h.allotted.directory, h.shapes, h.encoder⟩

theorem State.Served.write_named (h : s.Served) {w : EncoderWork} {x : CommitOutcome} {q : WriteReq}
    (working : s.encoder = some w) (writing : w.phase = .committing (.writing x))
    (next : commitWrite w x (s.page w.handle) = some q) : namesUnit q.addr := by
  have directory := h.allotted.directory
  have range := directory.shape_inRange h.shapes working
  have kept := h.encoder w working
  have some := kept.length_pos (by have := range.2.1.1; omega) writing
  have buffers := kept.2
  rw [writing] at buffers
  obtain ⟨-, -, -, -, -, -, offset, -, count⟩ := buffers
  refine commitWrite_named ?_ count (fun n inside => ?_) next
  · have most := (directory.records.records w.handle).committed.1
    have := range.positions_le
    rw [(directory.records.expects w working).1, PageRecord.expectedPosition]
    split
    · decide
    · next more =>
      rw [PageRecord.allCommitted_iff] at more
      rw [Option.getD_some]
      omega
  · refine State.namesUnit_streamUnit h.allotted.extents (h.units.1 w.handle) ?_
    rw [State.inFlight_of_writing working writing, if_pos rfl, ← offset]
    exact unit_lt_end some inside

theorem State.Served.press_named (h : s.Served) {c : PressChannel} {q : ReadReq} (active : s.pressChannel = some c)
    (next : c.nextRead (s.page c.handle).extents = some q) : namesUnit q.addr := by
  obtain ⟨cover, -, ⟨press, -⟩, -⟩ := h.units
  obtain ⟨shape, placed⟩ := press c active
  have range := h.shapes c.handle
    (by rcases h.allotted.directory.records.pressed h.allotted.directory.linked active with e | e <;> simp [e])
  have buffer (j : BufferId) (read : c.bufferRead j (s.page c.handle).extents = some q) : namesUnit q.addr := by
    unfold PressChannel.bufferRead at read
    split at read
    · next decoding =>
      obtain ⟨inside, sound⟩ := placed _ _ _ _ _ decoding
      exact Decoding.nextRead_named h.allotted.extents (cover _) (by rw [shape] at *; exact range.position_lt inside) sound read
    · cases read
  unfold PressChannel.nextRead at next
  dsimp only at next
  split at next <;> rcases Option.or_eq_some_iff.mp next with read | ⟨-, read⟩ <;> exact buffer _ read

theorem State.Served.proof_named (h : s.Served) {c : ProofChannel} {work : Decoding} {q : ReadReq}
    (active : s.proofChannel = some c) (decoding : c.buffer = .decoding work)
    (next : work.nextRead .proof c.handle (c.band * c.shape.planes + c.plane) (s.page c.handle).extents = some q) :
    namesUnit q.addr := by
  obtain ⟨cover, -, ⟨-, proof⟩, -⟩ := h.units
  have directory := h.allotted.directory
  obtain ⟨x, running⟩ := Option.isSome_iff_exists.mp (directory.linked.proof.channel (by simp [active]))
  obtain ⟨shape, -, -, -, inside, sound⟩ := proof c x active running
  have range := h.shapes c.handle (by rcases directory.records.proofed directory.linked active with e | e | e <;> simp [e])
  exact Decoding.nextRead_named h.allotted.extents (cover _) (by rw [shape] at *; exact range.position_lt inside)
    (sound work decoding) next

theorem State.Served.asks_named (h : s.Served) {a : Option UnitAddr} (asks : s.Asks a) : namesUnit a := by
  rcases asks with ⟨w, x, q, working, writing, next, rfl⟩ | ⟨c, q, active, next, rfl⟩ | ⟨c, work, q, active, decoding, next, rfl⟩
  · exact h.write_named working writing next
  · exact h.press_named active next
  · exact h.proof_named active decoding next

/-! ## The scheduler's requests and transfers (R150) -/

/-- The transfer is at a unit of the store. -/
def Grant.Named : Grant → Prop
  | .press q _ => namesUnit q.addr
  | .encoder q _ => namesUnit q.addr
  | .proof q _ => namesUnit q.addr
  | .refresh => True

/-- Every request and the transfer in progress are at units of the store. -/
structure Scheduler.Named (c : Scheduler) : Prop where
  press : ∀ q, c.pressReq = some q → namesUnit q.addr
  encoder : ∀ q, c.encoderReq = some q → namesUnit q.addr
  proof : ∀ q, c.proofReq = some q → namesUnit q.addr
  grant : ∀ g, c.grant = some g → g.Named

theorem Scheduler.unitsNamed_iff (c : Scheduler) : c.UnitsNamed ↔ c.Named := by
  constructor
  · rintro ⟨press, encoder, proof, grant⟩
    exact ⟨press, encoder, proof, fun g hg => by cases g <;> exact grant _ hg⟩
  · rintro ⟨press, encoder, proof, grant⟩
    exact ⟨press, encoder, proof, fun g hg => by cases g <;> exact grant _ hg⟩

theorem Grant.Named.orphanRead {g : Grant} (h : g.Named) (k : DecodeSlot) : (g.orphanRead k).Named := by
  cases g <;> exact h

theorem Grant.Named.orphanWrite {g : Grant} (h : g.Named) : g.orphanWrite.Named := by
  cases g <;> exact h

namespace Scheduler.Named

variable {c c' : Scheduler}

theorem grants (h : c.Named) (x : Thermal) : (c.grantNext x).Named := by
  rcases c.grantNext_cases x with ⟨e, -⟩ | ⟨-, -, k, -, eligible, -, e⟩ <;> rw [e]
  · exact h
  · cases k with
    | forcedRefresh | owedRefresh | pullIn => exact ⟨h.press, h.encoder, h.proof, fun g hg => by cases hg; trivial⟩
    | pressTransfer =>
      obtain ⟨q, hq⟩ := Option.isSome_iff_exists.mp eligible
      refine ⟨nofun, h.encoder, h.proof, fun g hg => ?_⟩
      rw [Scheduler.granted, hq] at hg
      cases hg
      exact h.press q hq
    | encoderTransfer =>
      obtain ⟨q, hq⟩ := Option.isSome_iff_exists.mp (Bool.and_eq_true_iff.mp eligible).1
      refine ⟨h.press, nofun, h.proof, fun g hg => ?_⟩
      rw [Scheduler.granted, hq] at hg
      cases hg
      exact h.encoder q hq
    | proofTransfer =>
      obtain ⟨q, hq⟩ := Option.isSome_iff_exists.mp (Bool.and_eq_true_iff.mp eligible).1
      refine ⟨h.press, h.encoder, nofun, fun g hg => ?_⟩
      rw [Scheduler.granted, hq] at hg
      cases hg
      exact h.proof q hq

theorem moves (h : c.Named) {x : Thermal} (m : c.Moves x c') : c'.Named := by
  cases m with
  | grants => exact h.grants x
  | dropsWrite =>
    refine ⟨h.press, nofun, h.proof, fun g hg => ?_⟩
    obtain ⟨g', before, rfl⟩ := Option.map_eq_some_iff.mp hg
    exact (h.grant g' before).orphanWrite
  | dropsRead k =>
    refine ⟨fun q hq => h.press q (Option.filter_eq_some_iff.mp hq).1, h.encoder,
      fun q hq => h.proof q (Option.filter_eq_some_iff.mp hq).1, fun g hg => ?_⟩
    obtain ⟨g', before, rfl⟩ := Option.map_eq_some_iff.mp hg
    exact (h.grant g' before).orphanRead k
  | completes => exact ⟨h.press, h.encoder, h.proof, nofun⟩
  | drains | wakes => exact ⟨h.press, h.encoder, h.proof, h.grant⟩

theorem step {A : Option UnitAddr → Prop} (named : ∀ a, A a → namesUnit a) {x : Thermal} (m : Scheduler.Step A x c c')
    (h : c.Named) : c'.Named := by
  cases m with
  | moves m => exact h.moves m
  | asksWrite q asked => exact ⟨h.press, fun q' e => by cases e; exact named _ asked, h.proof, h.grant⟩
  | asksPress q asked => exact ⟨fun q' e => by cases e; exact named _ asked, h.encoder, h.proof, h.grant⟩
  | asksProof q asked => exact ⟨h.press, h.encoder, fun q' e => by cases e; exact named _ asked, h.grant⟩
  | rests => exact ⟨h.press, h.encoder, h.proof, h.grant⟩

theorem expire (h : c.Named) (x : Thermal) : (c.expire x).Named := by
  unfold Scheduler.expire
  split <;> exact ⟨h.press, h.encoder, h.proof, h.grant⟩

end Scheduler.Named

/-! ## Command by command -/

theorem Change.served (h : Change v o s o' t) (kept : s.Served) : t.Served := by
  have directory := kept.allotted.directory
  have buffered := h.buffered kept.buffered
  obtain ⟨cover, damage, channels, units⟩ := kept.units
  obtain ⟨press, proof⟩ := State.channelsPlaced_iff.mp channels
  have named := h.sched_steps.keeps (Scheduler.Named.step fun _ => kept.asks_named) (s.sched.unitsNamed_iff.mp units)
  exact ⟨h.allotted kept.allotted, buffered.shapes, buffered.encoder, h.extentsCover directory cover,
    h.damageKept directory channels damage, State.channelsPlaced_iff.mpr
      ⟨h.pressPlaced directory kept.shapes press, h.proofPlaced directory damage proof⟩, t.sched.unitsNamed_iff.mpr named⟩

theorem State.UnitsKept.congr (h : s.UnitsKept) (pages : t.pages = s.pages) (encoder : t.encoder = s.encoder)
    (press : t.pressChannel = s.pressChannel) (proof : t.proofChannel = s.proofChannel) (view : t.view = s.view)
    (named : t.sched.Named) : t.UnitsKept := by
  obtain ⟨cover, damage, channels, -⟩ := h
  have page := State.page_congr pages
  refine ⟨fun k => (cover k).congr (by rw [page]) (by rw [page]) (State.inFlight_congr encoder k), fun k => ?_, ?_,
    t.sched.unitsNamed_iff.mpr named⟩
  · rw [page]
    exact damage k
  · unfold State.ChannelsPlaced
    simp only [press, proof, view, page]
    exact channels

theorem State.Served.begun (h : s.Served) (i : Instr) : (s.begun i).Served := by
  have buffered := h.buffered.begun i
  refine ⟨h.allotted.begun i, buffered.shapes, buffered.encoder, ?_⟩
  have named := s.sched.unitsNamed_iff.mp h.units.2.2.2
  rw [State.begun_eq]
  refine h.units.congr rfl rfl rfl rfl rfl ?_
  show (s.begun i).sched.Named
  unfold State.begun
  split
  · exact named
  · split
    · exact named.expire _
    · exact named
  · exact named

theorem State.Served.openAt (h : s.Served) {q : OpenParams} (good : q.InRange) {k : Handle}
    (free : (s.page k).state = .free) (idle : s.compose.state = .idle) : (s.openAt k q).Served := by
  have buffered := h.buffered.openAt good free idle
  have allotted := h.allotted.openAt (q := q) free idle
  have directory := h.allotted.directory
  have none := directory.linked.encoder_idle idle
  have inFlight (j : Handle) : (s.openAt k q).inFlight j = (0, []) :=
    State.inFlight_of_still rfl (fun _ => EncoderWork.begin_still _ _ _ _) j
  obtain ⟨cover, damage, ⟨press, proof⟩, units⟩ := h.units
  refine ⟨allotted, buffered.shapes, buffered.encoder, fun j => ?_, fun j n damaged => ?_, ⟨fun c active => ?_,
    fun c x active running => ?_⟩, units⟩
  · by_cases e : j = k
    · exact State.extentsCover_of_empty (by rw [State.page_openAt, if_pos e]; rfl) (by rw [State.page_openAt, if_pos e]; rfl) (inFlight j)
    · exact (cover j).congr (by rw [State.page_openAt, if_neg e]) (by rw [State.page_openAt, if_neg e])
        ((inFlight j).trans (State.inFlight_of_none none j).symm)
  · rw [State.page_openAt] at damaged ⊢
    split at damaged
    · cases damaged
    · next e =>
      rw [if_neg e]
      exact damage j n damaged
  · have other : c.handle ≠ k := by
      rintro rfl
      rcases directory.records.pressed directory.linked active with e | e <;> simp [free] at e
    rw [State.page_openAt, if_neg other]
    exact press c active
  · have other : c.handle ≠ k := by
      rintro rfl
      rcases directory.records.proofed directory.linked active with e | e | e <;> simp [free] at e
    rw [State.page_openAt, if_neg other]
    exact proof c x active running

theorem Scheduler.reset_named : Scheduler.reset.Named := ⟨nofun, nofun, nofun, nofun⟩

theorem State.reset_served (rest : List Instr) (draws : Vector Nat 8) :
    State.Served { State.reset with pending := rest, undefinedDraws := draws } := by
  have buffered := State.reset_buffered rest draws
  refine ⟨State.reset_allotted rest draws, buffered.shapes, buffered.encoder, fun k => ?_, fun k n damaged => ?_,
    State.channelsPlaced_iff.mpr ⟨State.pressPlaced_of_none rfl, State.proofPlaced_of_none rfl⟩,
    (Scheduler.unitsNamed_iff _).mpr Scheduler.reset_named⟩
  · exact State.extentsCover_of_gone buffered.directory.records (.inl (congrArg _ (State.page_reset k)))
  · cases (congrArg PageRecord.firstDamaged (State.page_reset k)).symm.trans damaged

theorem exec_keeps_served {i : Instr} (kept : s.Served) (h : exec i s = .next t) : t.Served :=
  exec_keeps (J := fun _ u => u.Served) h kept State.reset_served (fun change j => change.served j)
    (fun _ _ _ good free idle j => j.openAt good free idle) (kept.begun i)

theorem State.Allotted.waiting (h : s.Allotted) (rest : List Instr) : State.Allotted { s with pending := rest } :=
  ⟨h.directory.waiting rest, h.freeSet, h.extents⟩

theorem State.Served.waiting (h : s.Served) (rest : List Instr) : State.Served { s with pending := rest } :=
  ⟨h.allotted.waiting rest, h.shapes, h.encoder,
    h.units.congr rfl rfl rfl rfl rfl (s.sched.unitsNamed_iff.mp h.units.2.2.2)⟩

end Sys2Proof.Machine

/-! # Every step keeps the directory, the extents and the units -/

namespace Sys2Proof.Machine

variable {s : State}

theorem finishTransfer_named {a : Option UnitAddr} (named : namesUnit a) (k : UnitAddr → State) :
    ∃ t, finishTransfer a k = .next t := by
  obtain ⟨u, rfl, present⟩ := named
  have found : presentUnit (some u) = some u := Option.filter_eq_some_iff.mpr ⟨rfl, present⟩
  exact ⟨(k u).settle, by rw [finishTransfer, found]⟩

/-- A transfer at a unit of the store completes (R153, R154). -/
theorem execTransferCompletion_next (named : s.sched.Named) (change : StoreChange) :
    ∃ t, execTransferCompletion change s = .next t := by
  unfold execTransferCompletion
  split
  · next granted => exact finishTransfer_named (named.grant _ granted) _
  · next granted => exact finishTransfer_named (named.grant _ granted) _
  · next granted => exact finishTransfer_named (named.grant _ granted) _
  · exact ⟨_, rfl⟩
  · exact ⟨_, rfl⟩

/-- Only the completion of a transfer can stop the machine. -/
theorem exec_next (named : s.sched.Named) (i : Instr) : ∃ t, exec i s = .next t := by
  cases i with
  | transferCompletion change => exact execTransferCompletion_next named change
  | _ => exact ⟨_, rfl⟩

theorem step_next (named : s.sched.Named) : ∃ t, step s = .next t := by
  unfold step
  split
  · exact ⟨_, rfl⟩
  · next i rest _ => exact exec_next (s := { s with pending := rest }) named i

end Sys2Proof.Machine

section
open Sys2Proof Sys2Proof.Machine

/-- Settles O59: every change keeps the records, the extents and the units, and a transfer at a unit of the store
never faults. -/
theorem stepKeepsDirectory : Obligations.StepKeepsDirectory := by
  refine ⟨fun s t h blocks directory => ?_, fun s units => step_next (s.sched.unitsNamed_iff.mp units.2.2.2)⟩
  have linked := State.linked_of_agree blocks directory
  have found : s.Directory := ⟨linked, (State.directoryKept_iff.mp directory).1⟩
  refine ⟨?_, fun freeSet extents => ⟨?_, fun shapes encoder units => ?_⟩⟩
  · exact (step_keeps h found id (fun rest j => j.waiting rest) fun _ _ => exec_keeps_directory).kept
  · exact (step_keeps (J := State.Allotted) h ⟨found, freeSet, extents⟩ id (fun rest j => j.waiting rest)
      fun _ _ => exec_keeps_allotted).extents
  · exact (step_keeps (J := State.Served) h ⟨⟨found, freeSet, extents⟩, shapes, encoder, units⟩ id
      (fun rest j => j.waiting rest) fun _ _ => exec_keeps_served).units

end

/-! # The free set counted, and the order of takes (R40, R41) -/

namespace Sys2Proof.Machine

/-! ## The free-extent count is the number of free extents (R39) -/

/-- The free extents as a finite set. -/
def freeExtents : List Span → Finset Nat
  | [] => ∅
  | s :: t => Finset.Icc s.first s.last ∪ freeExtents t

@[simp] theorem mem_freeExtents (f : List Span) (e : Nat) : e ∈ freeExtents f ↔ isFree f e = true := by
  induction f with
  | nil => simp [freeExtents]
  | cons s t ih => rw [freeExtents, Finset.mem_union, Finset.mem_Icc, ih, isFree_cons]

theorem card_freeExtents {f : List Span} (wf : spansWf f) : (freeExtents f).card = freeCount f := by
  induction f with
  | nil => rfl
  | cons s t ih =>
    obtain ⟨-, gap, wf'⟩ := spansWf_cons.mp wf
    have apart : Disjoint (Finset.Icc s.first s.last) (freeExtents t) := by
      refine Finset.disjoint_left.mpr fun x inside free => ?_
      have := above_of_isFree gap ((mem_freeExtents t x).mp free)
      have := (Finset.mem_Icc.mp inside).2
      omega
    rw [freeExtents, Finset.card_union_of_disjoint apart, Nat.card_Icc, ih wf']
    rfl

theorem freeCount_of_adds {f f' : List Span} {e : Nat} (wf : spansWf f) (wf' : spansWf f')
    (busy : isFree f e = false) (adds : ∀ x, isFree f' x = true ↔ isFree f x = true ∨ x = e) :
    freeCount f' = freeCount f + 1 := by
  have same : freeExtents f' = insert e (freeExtents f) := by
    ext x
    rw [mem_freeExtents, adds, Finset.mem_insert, mem_freeExtents, or_comm]
  have fresh : e ∉ freeExtents f := by simp [busy]
  rw [← card_freeExtents wf', same, Finset.card_insert_of_notMem fresh, card_freeExtents wf]

theorem freeCount_returnExtents {f : List Span} (wf : spansWf f) {es : List Nat} (distinct : es.Nodup)
    (busy : ∀ e ∈ es, isFree f e = false) : freeCount (returnExtents es f) = freeCount f + es.length := by
  induction es generalizing f with
  | nil => rfl
  | cons e es ih =>
    obtain ⟨new, distinct'⟩ := List.nodup_cons.mp distinct
    obtain ⟨busyHead, busyTail⟩ := List.forall_mem_cons.mp busy
    have wf' := spansWf_freeExtent wf e
    have still : ∀ x ∈ es, isFree (freeExtent e f) x = false := fun x hx => by
      have other : x ≠ e := fun same => new (same ▸ hx)
      simpa [other, busyTail x hx] using isFree_freeExtent wf e x
    calc freeCount (returnExtents es (freeExtent e f))
        = freeCount (freeExtent e f) + es.length := ih wf' distinct' still
      _ = freeCount f + 1 + es.length := by rw [freeCount_of_adds wf wf' busyHead (isFree_freeExtent wf e)]
      _ = freeCount f + (e :: es).length := by rw [List.length_cons]; omega

/-! ## One extent taken (R40) -/

/-- What one take for a page of class `r` does to a canonical free set. -/
structure TakesOne (r : Retention) (f f' : List Span) (e : Nat) : Prop where
  wf : spansWf f'
  took : Took f f' e
  lowest : r = .keep → ∀ x, isFree f' x = true → e < x
  highest : r = .volatile → ∀ x, isFree f' x = true → x < e

theorem lt_of_takeLowest {f f' : List Span} {e : Nat} (wf : spansWf f) (h : takeLowest f = some (e, f')) {x : Nat}
    (free : isFree f' x = true) : e < x := by
  cases f with
  | nil => cases h
  | cons s t =>
    cases h
    obtain ⟨some, gap, -⟩ := spansWf_cons.mp wf
    have above : isFree t x = true → s.last + 1 < x := above_of_isFree gap
    split at free
    · rcases (isFree_cons ..).mp free with inside | later
      · exact inside.1
      · have := above later
        omega
    · have := above free
      omega

theorem lt_of_takeHighest {f f' : List Span} {e : Nat} (wf : spansWf f) (h : takeHighest f = some (e, f')) {x : Nat}
    (free : isFree f' x = true) : x < e := by
  induction f generalizing e f' with
  | nil => cases h
  | cons s t ih =>
    obtain ⟨some, gap, wf'⟩ := spansWf_cons.mp wf
    cases t with
    | nil =>
      cases h
      split at free
      · have inside := (isFree_cons ..).mp free
        simp only [isFree_nil, Bool.false_eq_true, or_false] at inside
        omega
      · simp at free
    | cons u t =>
      obtain ⟨rest, taken, rfl⟩ := takeHighest_cons h
      rcases (isFree_cons ..).mp free with inside | later
      · have removed := took_takeHighest wf' taken e
        have wasFree : isFree (u :: t) e = true := by
          by_contra busy
          simp [busy] at removed
        have := above_of_isFree gap wasFree
        omega
      · exact ih wf' taken later

theorem takeOne_takesOne {r : Retention} {f f' : List Span} {e : Nat} (wf : spansWf f)
    (h : takeOne r f = some (e, f')) : TakesOne r f f' e := by
  cases r with
  | keep => exact ⟨spansWf_takeLowest wf h, took_takeLowest wf h, fun _ _ => lt_of_takeLowest wf h, nofun⟩
  | volatile => exact ⟨spansWf_takeHighest wf h, took_takeHighest wf h, nofun, fun _ _ => lt_of_takeHighest wf h⟩

theorem freeCount_of_took {f f' : List Span} {e : Nat} (wf : spansWf f) (wf' : spansWf f') (h : Took f f' e) :
    freeCount f = freeCount f' + 1 := by
  refine freeCount_of_adds (e := e) wf' wf ?_ fun x => ?_
  · have := h e
    grind
  · have := h x
    grind

theorem takeOne_none_iff {r : Retention} {f : List Span} : takeOne r f = none ↔ f = [] := by
  have highest : ∀ g : List Span, takeHighest g = none ↔ g = [] := by
    intro g
    induction g with
    | nil => simp [takeHighest]
    | cons s t ih => cases t with
      | nil => simp [takeHighest]
      | cons u t => simp [takeHighest, ih]
  cases r with
  | keep => cases f <;> simp [takeOne, takeLowest]
  | volatile => exact highest f

/-! ## A take of many extents (R40) -/

/-- A take fails exactly when the set holds fewer extents than asked (R40). -/
theorem takeExtents_none_iff {r : Retention} {n : Nat} {f : List Span} (wf : spansWf f) :
    takeExtents r n f = none ↔ freeCount f < n := by
  induction n generalizing f with
  | zero => simp [takeExtents]
  | succ n ih =>
    unfold takeExtents
    cases one : takeOne r f with
    | none =>
      rw [takeOne_none_iff.mp one]
      simp [freeCount]
    | some x =>
      obtain ⟨e, f'⟩ := x
      have takes := takeOne_takesOne wf one
      have count := freeCount_of_took wf takes.wf takes.took
      simp only [Option.map_eq_none_iff, ih takes.wf]
      omega

theorem freeCount_takeExtents {r : Retention} {n : Nat} {f f' : List Span} {es : List Nat} (wf : spansWf f)
    (h : takeExtents r n f = some (es, f')) : freeCount f' + n = freeCount f := by
  induction n generalizing f es with
  | zero => cases h; rfl
  | succ n ih =>
    obtain ⟨e, es', rest, one, more, rfl⟩ := takeExtents_succ h
    have takes := takeOne_takesOne wf one
    have := ih takes.wf more
    have := freeCount_of_took wf takes.wf takes.took
    omega

/-- The extents taken were free and are not any more, each was taken once, and no other moved. -/
theorem takeExtents_moves {r : Retention} {n : Nat} {f f' : List Span} {es : List Nat} (wf : spansWf f)
    (h : takeExtents r n f = some (es, f')) (x : Nat) :
    (isFree f x = true ↔ isFree f' x = true ∨ x ∈ es) ∧ (x ∈ es → isFree f' x = false) := by
  have moved := isFree_takeExtents wf h x
  have listed : x ∈ es ↔ es.count x ≠ 0 := by rw [← Nat.pos_iff_ne_zero, List.count_pos_iff]
  rw [listed]
  grind

/-- The relation `R` that each single take has to what is left orders a take of many. -/
theorem takeExtents_ordered {R : Nat → Nat → Prop} {r : Retention} {n : Nat} {f f' : List Span} {es : List Nat}
    (first : ∀ {g g' : List Span} {e : Nat}, spansWf g → takeOne r g = some (e, g') → ∀ x, isFree g' x = true → R e x)
    (wf : spansWf f) (h : takeExtents r n f = some (es, f')) :
    es.Pairwise R ∧ ∀ e ∈ es, ∀ x, isFree f' x = true → R e x := by
  induction n generalizing f es with
  | zero => cases h; exact ⟨.nil, nofun⟩
  | succ n ih =>
    obtain ⟨e, es', rest, one, more, rfl⟩ := takeExtents_succ h
    have wf' := (takeOne_takesOne wf one).wf
    obtain ⟨ordered, left⟩ := ih wf' more
    have was := fun x => (takeExtents_moves wf' more x).1
    refine ⟨List.pairwise_cons.mpr ⟨fun x hx => first wf one x ((was x).mpr (.inr hx)), ordered⟩, ?_⟩
    exact List.forall_mem_cons.mpr ⟨fun x hx => first wf one x ((was x).mpr (.inl hx)), left⟩

end Sys2Proof.Machine

section

open Sys2Proof Sys2Proof.Machine

/-- Settles O23: takes one extent after another, and the count as the size of the set of free extents. -/
theorem freeSetGivesAndTakesBack : Obligations.FreeSetGivesAndTakesBack := by
  refine fun f wf => ⟨fun r n => ⟨takeExtents_none_iff wf, fun es f' h => ?_⟩, fun es => ?_⟩
  · have moves := takeExtents_moves wf h
    refine ⟨length_takeExtents h, spansWf_takeExtents wf h, freeCount_takeExtents wf h, fun e => (moves e).1,
      fun e => (moves e).2, ?_, ?_⟩
    · rintro rfl
      exact takeExtents_ordered (fun wf one => (takeOne_takesOne wf one).lowest rfl) wf h
    · rintro rfl
      exact takeExtents_ordered (R := fun e x => x < e) (fun wf one => (takeOne_takesOne wf one).highest rfl) wf h
  · exact ⟨spansWf_returnExtents wf es, isFree_returnExtents wf es, freeCount_returnExtents wf⟩

end

/-! # The store's contents after writes and after changes of their own (R29, R33, R36) -/

namespace Sys2Proof.Machine

/-! ## Many writes, the last at each address counting -/

theorem tableGet_foldl_tableSet {α : Type} (l : List (Nat × α)) (t : List (Nat × α)) (a : Nat) :
    tableGet a (l.foldl (fun t x => tableSet x.1 x.2 t) t) =
      ((l.reverse.find? fun x => x.1 == a).map Prod.snd).or (tableGet a t) := by
  induction l using List.reverseRecOn with
  | nil => rfl
  | append_singleton l x ih =>
    rw [List.foldl_append, List.foldl_cons, List.foldl_nil, tableGet_tableSet, ih, List.reverse_append,
      List.reverse_singleton, List.singleton_append]
    by_cases here : x.1 = a
    · rw [if_pos here.symm, List.find?_cons_of_pos (by simpa using here)]
      rfl
    · rw [if_neg (Ne.symm here), List.find?_cons_of_neg (by simpa using here)]

theorem foldl_writeByte (l : List (Nat × Byte)) (m : Memory) :
    l.foldl (fun m x => m.writeByte x.1 x.2) m =
      { m with bytes := l.foldl (fun t x => tableSet x.1 x.2 t) m.bytes } := by
  induction l generalizing m with
  | nil => rfl
  | cons x l ih => rw [List.foldl_cons, ih]; rfl

theorem foldl_writeEntry (l : List (Nat × IndexEntry)) (m : Memory) :
    l.foldl (fun m x => m.writeEntry x.1 x.2) m =
      { m with entries := l.foldl (fun t x => tableSet x.1 x.2 t) m.entries } := by
  induction l generalizing m with
  | nil => rfl
  | cons x l ih => rw [List.foldl_cons, ih]; rfl

/-- A change of the store's own writes its bytes into the one table and its entries into the other. -/
theorem Memory.change_eq (m : Memory) (c : StoreChange) : m.change c =
    { bytes := c.bytes.foldl (fun t x => tableSet x.1 x.2 t) m.bytes
      entries := c.entries.foldl (fun t x => tableSet x.1 x.2 t) m.entries } := by
  rw [Memory.change, foldl_writeByte, foldl_writeEntry]

/-! ## A run of bytes written (R33) -/

@[simp] theorem Memory.writeBytes_entries (m : Memory) (a : Nat) (bs : List Byte) :
    (m.writeBytes a bs).entries = m.entries := by
  induction bs generalizing m a with
  | nil => rfl
  | cons b bs ih => rw [Memory.writeBytes, ih, Memory.writeByte_entries]

theorem Memory.bytes_writeBytes_outside (m : Memory) {a b : Nat} {bs : List Byte}
    (outside : b < a ∨ a + bs.length ≤ b) : tableGet b (m.writeBytes a bs).bytes = tableGet b m.bytes := by
  rw [Memory.bytes_writeBytes, if_neg (by omega)]

theorem Memory.readBytes_writeBytes (m : Memory) (draws : Vector Nat 8) (a : Nat) (bs : List Byte) :
    (m.writeBytes a bs).readBytes draws a bs.length = bs := by
  unfold Memory.readBytes
  refine List.ext_getElem (by simp) fun i _ inside => ?_
  rw [List.getElem_map, List.getElem_range, Memory.readByte, Memory.bytes_writeBytes, if_pos (by omega),
    Nat.add_sub_cancel_left, List.getElem?_eq_getElem inside, Option.getD_some]

end Sys2Proof.Machine

section

open Sys2Proof Sys2Proof.Machine

/-- Settles O24: both tables under a list of writes, and a write as a run of bytes or one entry. -/
theorem writeChangesOnlyItsRange : Obligations.WriteChangesOnlyItsRange := by
  refine ⟨fun m c wf => ⟨m.wf_change wf c, fun a => ?_⟩, fun m u offset draws wf => ⟨fun bs => ?_, fun e => ?_⟩⟩
  · rw [Memory.change_eq]
    refine ⟨(tableGet_foldl_tableSet c.bytes m.bytes a).trans ?_, (tableGet_foldl_tableSet c.entries m.entries a).trans ?_⟩
    all_goals split <;> next found => rw [found]; rfl
  · exact ⟨m.wf_write wf u offset (.bytes bs), m.writeBytes_entries _ bs, fun a => m.bytes_writeBytes_outside,
      m.readBytes_writeBytes draws _ bs⟩
  · refine ⟨m.wf_write wf u offset (.entry e), rfl, ?_, fun a other => tableGet_tableSet_ne other e m.entries⟩
    exact (m.readEntry_writeEntry draws _ _ e).trans (if_pos rfl)

end

/-! # The units under a plane-band, as the encoder writes them and the channels read them (R33, R82, R92) -/

namespace Sys2Proof.Machine

/-! ## The part of a plane-band in each of its units (R33) -/

/-- Where the `k`-th unit of a plane-band begins in its stored bytes; the length where it lies past their end. -/
def unitCut (offset length k : Nat) : Nat := min length ((offset / 256 + k) * 256 - offset)

theorem unitCut_zero (offset length : Nat) : unitCut offset length 0 = 0 := by
  unfold unitCut
  omega

theorem unitCut_unitCount {offset length : Nat} (nonempty : 0 < length) :
    unitCut offset length (unitCount offset length) = length := by
  unfold unitCut unitCount
  omega

theorem unitCut_mono (offset length k : Nat) : unitCut offset length k ≤ unitCut offset length (k + 1) := by
  unfold unitCut
  omega

/-- The stored bytes that lie in the `k`-th unit of their plane-band. -/
def unitPart (bytes : List Byte) (offset k : Nat) : List Byte :=
  (bytes.drop (unitCut offset bytes.length k)).take
    (unitCut offset bytes.length (k + 1) - unitCut offset bytes.length k)

theorem length_unitPart (bytes : List Byte) (offset k : Nat) : (unitPart bytes offset k).length =
    unitCut offset bytes.length (k + 1) - unitCut offset bytes.length k := by
  rw [unitPart, List.length_take, List.length_drop]
  unfold unitCut
  omega

/-- The first units of a plane-band hold the bytes before the next unit's. -/
theorem flatMap_unitPart (bytes : List Byte) (offset k : Nat) :
    (List.range k).flatMap (unitPart bytes offset) = bytes.take (unitCut offset bytes.length k) := by
  induction k with
  | zero => rw [unitCut_zero]; rfl
  | succ k ih =>
    rw [List.range_succ, List.flatMap_append, ih, List.flatMap_singleton, unitPart, ← List.take_add,
      Nat.add_sub_cancel' (unitCut_mono ..)]

/-! ## The writes of a commit and the reads of a channel -/

/-- Where in the store unit under its `k`-th stream unit a plane-band begins. -/
def unitStart (offset k : Nat) : Nat := max offset ((offset / 256 + k) * 256) - (offset / 256 + k) * 256

/-- The part of a plane-band in a unit lies inside the unit and inside the plane-band, and begins there in the
stored bytes. -/
theorem unitPart_bounds {bytes : List Byte} {offset k : Nat} (nonempty : 0 < bytes.length)
    (inside : k < unitCount offset bytes.length) :
    let first := (offset / 256 + k) * 256 + unitStart offset k
    let n := (unitPart bytes offset k).length
    0 < n ∧ unitStart offset k + n ≤ 256 ∧ offset ≤ first ∧ first + n ≤ offset + bytes.length ∧
      unitCut offset bytes.length k = first - offset := by
  rw [length_unitPart]
  unfold unitCount at inside
  unfold unitCut unitStart
  omega

/-- Each write before the last carries the part in one unit (R82). -/
theorem commitWrite_unit {w : EncoderWork} {o : CommitOutcome} (length : (w.storedBytes o.mode).length = o.length)
    (nonempty : 0 < o.length) {k : Nat} (inside : k < unitCount o.offset o.length) (r : PageRecord) :
    commitWrite w { o with writesRemaining := unitCount o.offset o.length + 1 - k } r =
      some ⟨streamUnit r.extents (o.offset / 256 + k), unitStart o.offset k,
        .bytes (unitPart (w.storedBytes o.mode) o.offset k)⟩ := by
  obtain ⟨n, left⟩ : ∃ n, unitCount o.offset o.length - k = n + 1 := ⟨_, (Nat.succ_pred (by omega)).symm⟩
  have remaining : unitCount o.offset o.length + 1 - k = n + 2 := by omega
  have unit : unitCount o.offset o.length - (n + 1) = k := by omega
  have start : max o.offset ((o.offset / 256 + k) * 256) - o.offset = unitCut o.offset o.length k := by
    unfold unitCount at inside
    unfold unitCut
    omega
  have size : min (o.offset + o.length) ((o.offset / 256 + k + 1) * 256) - max o.offset ((o.offset / 256 + k) * 256) =
      unitCut o.offset o.length (k + 1) - unitCut o.offset o.length k := by
    unfold unitCount at inside
    unfold unitCut
    omega
  unfold commitWrite
  rw [remaining]
  dsimp only
  rw [unit, start, size, unitPart, length]
  rfl

/-- The last write of a commit is its index entry (R34). -/
theorem commitWrite_entry (w : EncoderWork) (o : CommitOutcome) (r : PageRecord) :
    commitWrite w { o with writesRemaining := 1 } r =
      some ⟨some (unitOfByte (entryByte w.handle (w.expected.getD 0))),
        entryByte w.handle (w.expected.getD 0) % 256, .entry ⟨o.offset, o.length, o.mode, o.check⟩⟩ := rfl

/-- The reads of a plane-band ask for its part in each unit (R92). -/
theorem nextRead_unit {d : Decoding} {e : IndexEntry} {k : Nat} {bytes : List Byte} (length : bytes.length = e.length)
    (inside : k < unitCount e.offset e.length) (slot : DecodeSlot) (h : Handle) (position : Nat) (extents : List Nat) :
    Decoding.nextRead { d with entry := some e, unitsRead := k } slot h position extents =
      some ⟨slot, streamUnit extents (e.offset / 256 + k),
        .bytes (unitStart e.offset k) (unitPart bytes e.offset k).length⟩ := by
  have size : min (e.offset + e.length) ((e.offset / 256 + k + 1) * 256) - max e.offset ((e.offset / 256 + k) * 256) =
      (unitPart bytes e.offset k).length := by
    rw [length_unitPart, length]
    unfold unitCount at inside
    unfold unitCut
    omega
  rw [← size]
  exact if_pos inside

theorem nextRead_done {d : Decoding} {e : IndexEntry} {k : Nat} (done : unitCount e.offset e.length ≤ k)
    (slot : DecodeSlot) (h : Handle) (position : Nat) (extents : List Nat) :
    Decoding.nextRead { d with entry := some e, unitsRead := k } slot h position extents = none :=
  if_neg (Nat.not_lt.mpr done)

end Sys2Proof.Machine

section

open Sys2Proof Sys2Proof.Machine

/-- Settles O44: the stored bytes cut at the units' bounds, each part written and read by itself. -/
theorem writesAndReadsCoverTheStream : Obligations.WritesAndReadsCoverTheStream := by
  intro w o r slot d bytes e position n writeAt readAt entryAt entryUnit length nonempty
  have write : ∀ k < n, writeAt k = some ⟨streamUnit r.extents (o.offset / 256 + k), unitStart o.offset k,
      .bytes (unitPart bytes o.offset k)⟩ := fun k inside => commitWrite_unit length nonempty inside r
  refine ⟨fun k inside => ⟨_, write k inside, unitPart bytes o.offset k, rfl, ?_⟩, ?_, ?_, nextRead_done (Nat.le_refl n) ..,
    rfl⟩
  · obtain ⟨full, fits, after, before, cut⟩ := unitPart_bounds (bytes := bytes) (offset := o.offset) (k := k)
      (by rwa [length]) (by rwa [length])
    refine ⟨full, fits, after, length ▸ before, rfl, nextRead_unit length inside .., ?_⟩
    rw [← cut, length_unitPart]
    rfl
  · calc _ = (List.range n).flatMap (unitPart bytes o.offset) :=
          List.flatMap_congr fun k hk => by rw [write k (List.mem_range.mp hk)]
      _ = bytes.take (unitCut o.offset bytes.length n) := flatMap_unitPart ..
      _ = bytes := by
        have whole : unitCut o.offset o.length n = o.length := unitCut_unitCount nonempty
        rw [length, whole, ← length, List.take_length]
  · have last : n + 1 - n = 1 := by omega
    show commitWrite w { o with writesRemaining := n + 1 - n } r = _
    rw [last]
    exact commitWrite_entry w o r

end

/-! # Transfers that complete: the store's side (R35, R82, R94, R151, R153, R154) -/

namespace Sys2Proof.Machine

variable {s : State}

/-! ## Grants -/

theorem Scheduler.granted_busy {c : Scheduler} {t : Thermal} {k : Candidate} (eligible : c.eligible t k = true) :
    (c.granted k).grant ≠ none := by
  cases k with
  | forcedRefresh => exact nofun
  | owedRefresh => exact nofun
  | pullIn => exact nofun
  | pressTransfer =>
    obtain ⟨q, asks⟩ := Option.isSome_iff_exists.mp (show c.pressReq.isSome = true from eligible)
    simp [Scheduler.granted, asks]
  | encoderTransfer =>
    obtain ⟨q, asks⟩ := Option.isSome_iff_exists.mp (Bool.and_eq_true_iff.mp eligible).1
    simp [Scheduler.granted, asks]
  | proofTransfer =>
    obtain ⟨q, asks⟩ := Option.isSome_iff_exists.mp (Bool.and_eq_true_iff.mp eligible).1
    simp [Scheduler.granted, asks]

/-- A second grant in one event changes nothing. -/
@[simp] theorem Scheduler.grantNext_grantNext (c : Scheduler) (t : Thermal) :
    (c.grantNext t).grantNext t = c.grantNext t := by
  rcases c.grantNext_cases t with ⟨same, -⟩ | ⟨-, -, k, -, eligible, -, granted⟩
  · rw [same, same]
  · rw [granted]
    exact Scheduler.grantNext_busy (Scheduler.granted_busy eligible) t

theorem State.settle_grantNext (s : State) : s.grantNext.settle = s.settle := by
  show State.checkDrain { s with sched := (s.sched.grantNext s.thermal).grantNext s.thermal } = _
  rw [Scheduler.grantNext_grantNext]
  rfl

/-! ## The completion of a transfer -/

theorem finishTransfer_present {a : Option UnitAddr} {u : UnitAddr} (unit : a = some u) (present : u.present = true)
    (k : UnitAddr → State) : finishTransfer a k = .next (k u).settle := by
  have found : presentUnit a = some u := Option.filter_eq_some_iff.mpr ⟨unit, present⟩
  rw [finishTransfer, found]

theorem finishTransfer_absent {a : Option UnitAddr} (absent : ∀ u, a = some u → u.present = false)
    (k : UnitAddr → State) : finishTransfer a k = .fault .absentStoreUnit := by
  have found : presentUnit a = none := Option.filter_eq_none_iff.mpr fun u unit => by simp [absent u unit]
  rw [finishTransfer, found]

theorem exec_write {q : WriteReq} {live : Bool} (granted : s.sched.grant = some (.encoder q live)) (x : StoreChange) :
    exec (.transferCompletion x) s = finishTransfer q.addr ((s.freed x).completeWrite q live) := by
  show execTransferCompletion x s = _
  rw [execTransferCompletion, granted]

theorem exec_pressRead {q : ReadReq} {live : Bool} (granted : s.sched.grant = some (.press q live)) (x : StoreChange) :
    exec (.transferCompletion x) s = finishTransfer q.addr ((s.freed x).completePressRead q live) := by
  show execTransferCompletion x s = _
  rw [execTransferCompletion, granted]

theorem exec_proofRead {q : ReadReq} {live : Bool} (granted : s.sched.grant = some (.proof q live)) (x : StoreChange) :
    exec (.transferCompletion x) s = finishTransfer q.addr ((s.freed x).completeProofRead q live) := by
  show execTransferCompletion x s = _
  rw [execTransferCompletion, granted]

theorem exec_noTransfer (idle : s.sched.grant = none ∨ s.sched.grant = some .refresh) (x : StoreChange) :
    exec (.transferCompletion x) s = .next s := by
  show execTransferCompletion x s = _
  rcases idle with granted | granted <;> rw [execTransferCompletion, granted]

/-- A write lands, and its commit goes on; one given up lets the next commit's first write be presented (R83, R151). -/
theorem exec_write_lands {q : WriteReq} {live : Bool} {u : UnitAddr} (granted : s.sched.grant = some (.encoder q live))
    (unit : q.addr = some u) (present : u.present = true) (x : StoreChange) :
    let t := s.transferred ((s.store.change x).write u q.offset q.data)
    exec (.transferCompletion x) s = .next (if live then t.writeDone else t.presentWrite).settle :=
  (exec_write granted x).trans (finishTransfer_present unit present _)

theorem State.completePressRead_discarded (x : StoreChange) (q : ReadReq) (u : UnitAddr) :
    (s.freed x).completePressRead q false u = (s.transferred (s.store.change x)).presentPress := by
  obtain ⟨slot, addr, target⟩ := q
  cases slot <;> rfl

/-! ## The next write of a commit -/

theorem commitWrite_none_iff {w : EncoderWork} {o : CommitOutcome} {r : PageRecord} :
    commitWrite w o r = none ↔ o.writesRemaining = 0 := by
  unfold commitWrite
  split <;> simp [*]

theorem State.presentWrite_idle (idle : ∀ w o, s.encoder = some w → w.phase ≠ .committing (.writing o)) :
    s.presentWrite = s := by
  rcases s.presentWrite_cases with same | ⟨w, o, -, working, writing, -⟩
  · exact same
  · exact absurd writing (idle w o working)

/-- A commit with writes to come presents the next (R82). -/
theorem State.presentWrite_writing {w : EncoderWork} {o : CommitOutcome} {r : PageRecord} (working : s.encoder = some w)
    (writing : w.phase = .committing (.writing o)) (record : s.page w.handle = r) (waits : s.sched.encoderReq = none)
    (own : s.sched.grant.any (·.isWrite) = false) (left : o.writesRemaining ≠ 0) :
    s.presentWrite = { s with
      sched := Scheduler.grantNext { s.sched with encoderReq := commitWrite w o r } s.thermal } := by
  obtain ⟨q, next⟩ := Option.ne_none_iff_exists'.mp (mt (commitWrite_none_iff (w := w) (r := r)).mp left)
  have presents : s.presentWrite = (s.updateSched fun c => { c with encoderReq := some q }).grantNext := by
    simp [State.presentWrite, working, writing, record, waits, own, next]
  rw [presents, next]
  rfl

/-- The next write presented where a transfer completes; with no write to come the store is settled alike. -/
theorem State.settle_presentWrite {w : EncoderWork} {o : CommitOutcome} (working : s.encoder = some w)
    (writing : w.phase = .committing (.writing o)) (waits : s.sched.encoderReq = none) (free : s.sched.grant = none) :
    s.presentWrite.settle = State.settle { s with
      sched := Scheduler.grantNext { s.sched with encoderReq := commitWrite w o (s.page w.handle) } s.thermal } := by
  by_cases left : o.writesRemaining = 0
  · have none : commitWrite w o (s.page w.handle) = none := commitWrite_none_iff.mpr left
    have same : s.presentWrite = s := by simp [State.presentWrite, working, writing, none]
    rw [same, none, ← waits]
    exact s.settle_grantNext.symm
  · rw [State.presentWrite_writing working writing rfl waits (by rw [free]; rfl) left]

end Sys2Proof.Machine

section

open Sys2Proof Sys2Proof.Machine

/-- Settles O25: each kind of transfer completes by itself, and what is presented next is granted at most once. -/
theorem transfersWithNoOneWaiting : Obligations.TransfersWithNoOneWaiting := by
  intro x s go
  refine ⟨fun q u granted unit present => ?_, fun q u granted unit present => ?_, fun q u granted unit present => ?_,
    fun q live granted absent => ?_, fun q live granted absent => ?_, fun idle => exec_noTransfer idle x⟩
  · have lands : go = .next (s.transferred ((s.store.change x).write u q.offset q.data)).presentWrite.settle :=
      exec_write_lands granted unit present x
    refine ⟨fun idle => ?_, fun w o working writing waits => ?_⟩
    · rw [lands, State.presentWrite_idle (s := s.transferred _) idle]
    · rw [lands, State.settle_presentWrite (s := s.transferred _) working writing waits rfl]
      rfl
  · exact (exec_pressRead granted x).trans ((finishTransfer_present unit present _).trans
      (by rw [State.completePressRead_discarded]))
  · exact (exec_proofRead granted x).trans (finishTransfer_present unit present _)
  · exact (exec_write granted x).trans (finishTransfer_absent absent _)
  · rcases granted with granted | granted
    · exact (exec_pressRead granted x).trans (finishTransfer_absent absent _)
    · exact (exec_proofRead granted x).trans (finishTransfer_absent absent _)

end

/-! # A commit's end: its writes done, or its extent take refused (R81, R83, R86, R87) -/

namespace Sys2Proof.Machine

variable {s : State} {w : EncoderWork}

/-! ## The token owed, and the deferred reply behind it -/

/-- The Compose port's token sent, with the encoder's work as the token leaves it. -/
def State.tokenSent (s : State) (w : EncoderWork) (k : Token) : State :=
  { s.sent .compose (.token k) with encoder := some w }

theorem State.send_token (up : s.compose.state ≠ .down) (w : EncoderWork) (k : Token) :
    ({ s with encoder := some w }).send .compose (.token k) = s.tokenSent w k :=
  State.send_eq_sent (s := { s with encoder := some w }) (p := .compose) up _

theorem State.judgeDeferred_none {w' : EncoderWork} (none : w.deferred = none) (left : { w with deferred := .none } = w')
    (k : Token) : (s.tokenSent w k).judgeDeferred = s.tokenSent w' k := by
  have same : w = w' := by rw [← left, ← none]
  have judged : (s.tokenSent w k).judgeDeferred = s.tokenSent w k := by
    rw [State.judgeDeferred]
    simp only [State.tokenSent, none]
  rw [judged, same]

theorem State.judgeDeferred_seal (deferred : w.deferred = some .sealPage) (k : Token) :
    (s.tokenSent w k).judgeDeferred = (s.tokenSent { w with deferred := none } k).sealNow w := by
  rw [State.judgeDeferred]
  simp only [State.tokenSent, deferred]

/-- A deferred SEAL_PAGE of a page whose positions are all committed (R9, R86). -/
theorem State.judgeDeferred_sealed {r : PageRecord} (record : s.page w.handle = r)
    (deferred : w.deferred = some .sealPage) (all : r.allCommitted = true) (k : Token) :
    (s.tokenSent w k).judgeDeferred =
      { s.setPage w.handle { r with state := .sealed } with
        encoder := none
        compose := { s.compose with
          state := .idle
          transmit := s.compose.transmit ++ [.token k, .reply 0x11 .ok .idle []] } } := by
  have page : (s.tokenSent { w with deferred := none } k).page w.handle = r := record
  rw [State.judgeDeferred_seal deferred, State.sealNow, page, if_pos all, State.updatePage, page,
    List.append_cons s.compose.transmit]
  rfl

/-- A deferred SEAL_PAGE of a page with positions left (R9, R86). -/
theorem State.judgeDeferred_incomplete {w' : EncoderWork} {r : PageRecord} (record : s.page w.handle = r)
    (inbound : s.compose.state = .inbound) (deferred : w.deferred = some .sealPage) (more : r.allCommitted = false)
    (left : { w with deferred := none } = w') (k : Token) :
    (s.tokenSent w k).judgeDeferred =
      { s with
        encoder := some w'
        compose := { s.compose with
          transmit := s.compose.transmit ++ [.token k, .reply 0x11 .incomplete .inbound []] } } := by
  have page : (s.tokenSent w' k).page w.handle = r := record
  have answered : (s.tokenSent w' k).reply .compose 0x11 .incomplete [] =
      (s.tokenSent w' k).sent .compose (.reply 0x11 .incomplete s.compose.state []) :=
    State.send_eq_sent (s := s.tokenSent w' k) (p := .compose) (show s.compose.state ≠ .down by simp [inbound]) _
  rw [State.judgeDeferred_seal deferred, left, State.sealNow, page, more, if_neg (by decide),
    List.append_cons s.compose.transmit, ← inbound]
  exact answered

theorem State.judgeDeferred_abandoned (deferred : w.deferred = some .abandonPage) (k : Token) :
    (s.tokenSent w k).judgeDeferred =
      { s.freePage w.handle with
        encoder := none
        compose := { s.compose with
          state := .idle
          transmit := s.compose.transmit ++ [.token k, .reply 0x12 .ok .idle []] } } := by
  have judged : (s.tokenSent w k).judgeDeferred = (s.tokenSent { w with deferred := none } k).abandonNow w := by
    rw [State.judgeDeferred]
    simp only [State.tokenSent, deferred]
  rw [judged, List.append_cons s.compose.transmit]
  rfl

/-! ## A commit completes (R82, R83) -/

/-- A write of a commit with more to come (R82). -/
theorem State.writeDone_left {o : CommitOutcome} (working : s.encoder = some w)
    (writing : w.phase = .committing (.writing o)) (left : o.writesRemaining - 1 ≠ 0) :
    s.writeDone = State.presentWrite { s with
      encoder := some { w with
        phase := .committing (.writing { o with writesRemaining := o.writesRemaining - 1 }) } } := by
  simp only [State.writeDone, working, writing, if_neg left]

/-- The last write of a commit: the counts advance, the buffers empty, and ACCEPT is sent (R83). -/
theorem State.writeDone_last {o : CommitOutcome} {r : PageRecord} (working : s.encoder = some w)
    (writing : w.phase = .committing (.writing o)) (last : o.writesRemaining = 1) (up : s.compose.state ≠ .down)
    (record : (s.page w.handle).commitOne o.length = r) : s.writeDone =
      ((s.setPage w.handle r).tokenSent (w.emptied r.encoderPhase r.expectedPosition) .accept).judgeDeferred := by
  rw [← State.send_token (s := s.setPage w.handle r) up, ← record]
  simp only [State.writeDone, working, writing, last]
  rfl

end Sys2Proof.Machine

section

open Sys2Proof Sys2Proof.Machine

/-- Settles O22: the write lands, and then the next is presented or the commit completes. -/
theorem commitWritesInOrder : Obligations.CommitWritesInOrder := by
  intro x q u w o s granted unit present working writing waits inbound t r o' r' all w'
  have lands : exec (.transferCompletion x) s = .next t.writeDone.settle :=
    exec_write_lands granted unit present x
  refine ⟨fun more => ?_, fun last => ?_⟩
  · rw [lands, State.writeDone_left (s := t) working writing (by omega),
      State.settle_presentWrite (s := { t with encoder := _ }) rfl rfl waits rfl]
    rfl
  · have up : t.compose.state ≠ .down := by
      show s.compose.state ≠ .down
      simp [inbound]
    have all_iff : r'.allCommitted = true ↔ all := r'.allCommitted_iff
    have emptied : { w.emptied r'.encoderPhase r'.expectedPosition with deferred := none } = w' := by
      simp only [w', EncoderWork.emptied, PageRecord.encoderPhase, PageRecord.expectedPosition, all_iff]
    have page : (t.setPage w.handle r').page (w.emptied r'.encoderPhase r'.expectedPosition).handle = r' :=
      t.page_setPage w.handle r'
    rw [lands, State.writeDone_last (s := t) (r := r') working writing last up rfl]
    congr 2
    cases deferred : w.deferred with
    | none => exact State.judgeDeferred_none (by exact deferred) emptied .accept
    | some d => cases d with
      | abandonPage => exact State.judgeDeferred_abandoned (by exact deferred) .accept
      | sealPage =>
        dsimp only
        split
        · next full =>
          refine (State.judgeDeferred_sealed page (by exact deferred) (all_iff.mpr full) .accept).trans ?_
          rw [show (w.emptied r'.encoderPhase r'.expectedPosition).handle = w.handle from rfl, State.setPage_setPage]
          rfl
        · next more =>
          exact State.judgeDeferred_incomplete page (by exact inbound) (by exact deferred)
            (by simpa using mt all_iff.mp more) emptied .accept

end

/-! # The extent take of a commit (R80, R81) -/

namespace Sys2Proof.Machine

variable {s : State} {w : EncoderWork}

/-! ## The first stage's outcome (R61, R64, R80) -/

/-- A plane-band coded row by row, as the encoder's buffers hold it when its last line has been coded. -/
def EncoderWork.wholeBand (w : EncoderWork) (p : Shape) : Coding × List Bool :=
  encodeRows (p.tol (w.plane p)) (p.raw (w.band p)) (stagedRows p.width (p.bandLines (w.band p)) w.staging)

/-- The stored bytes of the whole plane-band (R61, R62). -/
def EncoderWork.bandBytes (w : EncoderWork) (p : Shape) : List Byte :=
  if (w.wholeBand p).1.stopped then w.staging else codedBytes (w.wholeBand p).2

theorem EncoderWork.Kept.codeLast_eq {p : Shape} {stream : Nat} (h : w.Kept p stream)
    (full : w.phase = .committing .finishing) :
    w.codeLast p = { w with coding := some (w.wholeBand p).1, output := (w.wholeBand p).2 } := by
  obtain ⟨-, -, -, ⟨coding, output⟩, -⟩ := h.finish full []
  calc w.codeLast p = { w with coding := (w.codeLast p).coding, output := (w.codeLast p).output } := rfl
    _ = _ := congrArg₂ (fun c o => { w with coding := c, output := o }) coding output

theorem EncoderWork.Kept.outcome_eq {p : Shape} {stream : Nat} (h : w.Kept p stream)
    (full : w.phase = .committing .finishing) : (w.codeLast p).outcome stream =
      { mode := if (w.wholeBand p).1.stopped then .raw else .coded
        length := (w.bandBytes p).length
        check := crc16 (w.bandBytes p)
        offset := stream
        extentsTaken := []
        writesRemaining := unitCount stream (w.bandBytes p).length + 1 } := by
  obtain ⟨-, -, -, -, -, -, check, -⟩ := h.finish full []
  have mode : (w.codeLast p).storageMode = if (w.wholeBand p).1.stopped then .raw else .coded := by
    rw [h.codeLast_eq full]
    rfl
  have bytes : (w.codeLast p).storedBytes (w.codeLast p).storageMode = w.bandBytes p := by
    rw [mode, h.codeLast_eq full, EncoderWork.bandBytes]
    split <;> rfl
  have covered : (w.codeLast p).storedCheck (w.codeLast p).storageMode = crc16 (w.bandBytes p) := bytes ▸ check
  rw [EncoderWork.outcome, covered, bytes, mode]

/-! ## The take judged (R81) -/

theorem exec_extentTake (working : s.encoder = some w) (full : w.phase = .committing .finishing) :
    exec .extentTake s = .next (s.takeForCommit w) := by
  show execExtentTake s = _
  rw [execExtentTake, working]
  dsimp only
  rw [full]

theorem extentsNeeded_eq (r : PageRecord) (n : Nat) :
    extentsNeeded r n = (r.streamLength + n + 65535) / 65536 - r.extents.length := by
  unfold extentsNeeded ceilDiv
  omega

/-- The extents taken join the tail of the page's list, and the commit goes to its writes (R81, R82). -/
theorem State.takeForCommit_granted {o : CommitOutcome} {es : List Nat} {f : List Span}
    (outcome : (w.codeLast (s.page w.handle).shape).outcome (s.page w.handle).streamLength = o)
    (take : takeExtents (s.page w.handle).retention (extentsNeeded (s.page w.handle) o.length) s.freeSet = some (es, f)) :
    s.takeForCommit w = State.presentWrite
      { s.setPage w.handle { s.page w.handle with extents := (s.page w.handle).extents ++ es } with
        freeSet := f
        encoder := some { w.codeLast (s.page w.handle).shape with
          phase := .committing (.writing { o with extentsTaken := es }) } } := by
  rw [State.takeForCommit]
  dsimp only
  rw [outcome, take]

/-- The plane-band goes back to its first line with REJECT_FULL (R81). -/
theorem State.takeForCommit_refused {o : CommitOutcome} (up : s.compose.state ≠ .down)
    (outcome : (w.codeLast (s.page w.handle).shape).outcome (s.page w.handle).streamLength = o)
    (take : takeExtents (s.page w.handle).retention (extentsNeeded (s.page w.handle) o.length) s.freeSet = none) :
    s.takeForCommit w = (s.tokenSent (w.emptied .ready w.expected) .rejectFull).judgeDeferred := by
  rw [← State.send_token up, State.takeForCommit]
  dsimp only
  rw [outcome, take]
  rfl

theorem State.presentWrite_busy (busy : s.sched.grant.any (·.isWrite) = true) : s.presentWrite = s := by
  rcases s.presentWrite_cases with same | ⟨w, o, q, -, -, -, own, -⟩
  · exact same
  · rw [busy] at own
    cases own

end Sys2Proof.Machine

section

open Sys2Proof Sys2Proof.Machine

/-- Settles O21: the first stage's outcome is that of the whole plane-band, and the take decides. -/
theorem extentTakeJudged : Obligations.ExtentTakeJudged := by
  intro w s inbound working full freeSet kept waits r p band lines x stored units o coded needed again
  have codes : w.codeLast p = coded := (kept w working).codeLast_eq full
  have outcome : (w.codeLast p).outcome r.streamLength = o [] := (kept w working).outcome_eq full
  have need : extentsNeeded r (o []).length = needed := extentsNeeded_eq r stored.length
  rw [exec_extentTake working full]
  refine ⟨fun es f take => ?_, fun few left => ?_⟩
  · rw [State.takeForCommit_granted outcome (by rw [need]; exact take), codes]
    congr 1
    have page : (s.setPage w.handle { r with extents := r.extents ++ es }).page w.handle =
      { r with extents := r.extents ++ es } := s.page_setPage ..
    split
    · next granted => exact State.presentWrite_busy (by show s.sched.grant.any _ = true; rw [granted]; rfl)
    · next other =>
      have own : s.sched.grant.any (·.isWrite) = false := by
        cases grant : s.sched.grant with
        | none => rfl
        | some g => cases g with
          | encoder q live => exact absurd grant (other q live)
          | _ => rfl
      exact State.presentWrite_writing (w := { coded with phase := .committing (.writing (o es)) }) (o := o es) rfl rfl page
        waits own (Nat.succ_ne_zero units)
  · have up : s.compose.state ≠ .down := by simp [inbound]
    have more : r.allCommitted = false := by simpa using mt r.allCommitted_iff.mp left
    rw [State.takeForCommit_refused up outcome (by rw [need]; exact (takeExtents_none_iff freeSet).mpr few)]
    congr 1
    cases deferred : w.deferred with
    | none => exact State.judgeDeferred_none (w' := again) (by exact deferred) rfl .rejectFull
    | some d => cases d with
      | abandonPage => exact State.judgeDeferred_abandoned (by exact deferred) .rejectFull
      | sealPage =>
        exact State.judgeDeferred_incomplete (w := w.emptied .ready w.expected) (w' := again) (r := r) rfl inbound
          deferred more rfl .rejectFull

end

/-! # The band code: bits, contexts and code words (03_band_coding.md) -/

namespace Sys2Proof.Machine

/-! ## Bits and the numbers they spell -/

@[simp] theorem length_natBits (w n : Nat) : (natBits w n).length = w := by simp [natBits]

theorem natBits_zero (n : Nat) : natBits 0 n = [] := rfl

theorem natBits_succ (w n : Nat) : natBits (w + 1) n = natBits w (n / 2) ++ [n.testBit 0] := by
  unfold natBits
  rw [List.range_succ, List.map_append, List.map_singleton, Nat.add_sub_cancel, Nat.sub_self]
  congr 1
  refine List.map_congr_left fun i hi => ?_
  have place : w - i = (w - 1 - i) + 1 := by have := List.mem_range.mp hi; omega
  rw [place, Nat.testBit_succ]

theorem bitsNat_concat (bits : List Bool) (b : Bool) : bitsNat (bits ++ [b]) = 2 * bitsNat bits + b.toNat := by
  simp [bitsNat]

theorem bitsNat_natBits (w n : Nat) : bitsNat (natBits w n) = n % 2 ^ w := by
  induction w generalizing n with
  | zero => simp [natBits_zero, bitsNat, Nat.mod_one]
  | succ w ih => rw [natBits_succ, bitsNat_concat, ih, Nat.toNat_testBit, pow_succ', Nat.mod_mul]; omega

theorem natBits_bitsNat (bits : List Bool) : natBits bits.length (bitsNat bits) = bits := by
  induction bits using List.reverseRecOn with
  | nil => rfl
  | append_singleton bits b ih =>
    have half : (2 * bitsNat bits + b.toNat) / 2 = bitsNat bits := by cases b <;> simp; omega
    have last : (2 * bitsNat bits + b.toNat).testBit 0 = b := by cases b <;> simp
    rw [List.length_append, List.length_singleton, natBits_succ, bitsNat_concat, half, last, ih]

theorem bitsNat_lt (bits : List Bool) : bitsNat bits < 2 ^ bits.length := by
  have same := bitsNat_natBits bits.length (bitsNat bits)
  rw [natBits_bitsNat] at same
  rw [same]
  exact Nat.mod_lt _ (Nat.two_pow_pos _)

/-! ## Contexts and Rice parameters (R53, R54) -/

/-- The search answers the least parameter that fits, or the last one it may. -/
theorem riceSearch_least (c : Context) (k fuel : Nat) :
    riceSearch c k fuel ≤ k + fuel ∧ (∀ j, k ≤ j → j < riceSearch c k fuel → c.cnt * 2 ^ j < c.acc) ∧
      (riceSearch c k fuel < k + fuel → c.acc ≤ c.cnt * 2 ^ riceSearch c k fuel) := by
  induction fuel generalizing k with
  | zero => exact ⟨Nat.le_refl _, fun j low high => absurd high (Nat.not_lt.mpr low), fun h => absurd h (Nat.lt_irrefl _)⟩
  | succ fuel ih =>
    unfold riceSearch
    split
    · next fits => exact ⟨by omega, fun j low high => absurd high (Nat.not_lt.mpr low), fun _ => fits⟩
    · next misfit =>
      obtain ⟨most, less, fits⟩ := ih (k + 1)
      refine ⟨by omega, fun j low high => ?_, fun h => fits (by omega)⟩
      rcases Nat.eq_or_lt_of_le low with rfl | above
      · exact Nat.lt_of_not_le misfit
      · exact less j above high

/-- R53, for the bound `fuel` on the parameter. -/
theorem riceSearch_zero (c : Context) (fuel : Nat) :
    riceSearch c 0 fuel ≤ fuel ∧ (∀ j < riceSearch c 0 fuel, c.cnt * 2 ^ j < c.acc) ∧
      (riceSearch c 0 fuel < fuel → c.acc ≤ c.cnt * 2 ^ riceSearch c 0 fuel) := by
  obtain ⟨most, less, fits⟩ := riceSearch_least c 0 fuel
  rw [Nat.zero_add] at most fits
  exact ⟨most, fun j => less j (Nat.zero_le j), fits⟩

theorem riceRegular_le (c : Context) : riceRegular c ≤ 7 := (riceSearch_zero c 7).1

theorem riceRun_le (c : Context) : riceRun c ≤ 12 := (riceSearch_zero c 12).1

theorem Context.update_cnt {c : Context} (some : 1 ≤ c.cnt) (most : c.cnt ≤ 31) (v : Nat) :
    1 ≤ (c.update v).cnt ∧ (c.update v).cnt ≤ 31 := by
  unfold Context.update
  split
  · dsimp only; omega
  · dsimp only; omega

theorem Context.update_below {c : Context} (below : c.cnt < 31) (v : Nat) : c.update v = ⟨c.acc + v, c.cnt + 1⟩ :=
  if_neg (by omega)

theorem Context.update_halved {c : Context} (most : c.cnt = 31) (v : Nat) : c.update v = ⟨(c.acc + v) / 2, 16⟩ :=
  if_pos (by omega)

/-! ## Code words (R55) -/

/-- The bits of one code word that carries `v`: a short word, or an escape. -/
def SpellsWord (esc k v : Nat) (word : List Bool) : Prop :=
  (∃ u low, u < 16 ∧ low.length = k ∧ word = List.replicate u true ++ false :: low ∧ v = u * 2 ^ k + bitsNat low) ∨
    ∃ low, low.length = esc ∧ word = List.replicate 16 true ++ low ∧ v = bitsNat low

theorem readOnes_zeroBit {u limit : Nat} (below : u < limit) (rest : List Bool) :
    readOnes limit (List.replicate u true ++ false :: rest) = some (u, true, rest) := by
  induction u generalizing limit with
  | zero => obtain ⟨l, rfl⟩ := Nat.exists_eq_succ_of_ne_zero (Nat.ne_of_gt below); rfl
  | succ u ih =>
    obtain ⟨l, rfl⟩ := Nat.exists_eq_succ_of_ne_zero (Nat.ne_of_gt (Nat.zero_lt_of_lt below))
    rw [List.replicate_succ, List.cons_append, readOnes, ih (by omega)]
    rfl

theorem readOnes_limit (limit : Nat) (rest : List Bool) :
    readOnes limit (List.replicate limit true ++ rest) = some (limit, false, rest) := by
  induction limit with
  | zero => rfl
  | succ l ih => rw [List.replicate_succ, List.cons_append, readOnes, ih]; rfl

/-- What was read is one-bits up to a zero-bit, or as many one-bits as the limit. -/
theorem readOnes_eq_some {limit u : Nat} {z : Bool} {bits rest : List Bool} (h : readOnes limit bits = some (u, z, rest)) :
    (z = true ∧ u < limit ∧ bits = List.replicate u true ++ false :: rest) ∨
      (z = false ∧ u = limit ∧ bits = List.replicate limit true ++ rest) := by
  induction limit generalizing bits u with
  | zero => cases h; exact .inr ⟨rfl, rfl, rfl⟩
  | succ l ih =>
    cases bits with
    | nil => cases h
    | cons b bits =>
      cases b with
      | false => cases h; exact .inl ⟨rfl, Nat.succ_pos l, rfl⟩
      | true =>
        obtain ⟨⟨v, z', rest'⟩, read, same⟩ := Option.map_eq_some_iff.mp h
        cases same
        rcases ih read with ⟨rfl, below, rfl⟩ | ⟨rfl, rfl, rfl⟩
        · exact .inl ⟨rfl, Nat.succ_lt_succ below, rfl⟩
        · exact .inr ⟨rfl, rfl, rfl⟩

/-- Reading takes a word off the front of the bits, whatever follows it. -/
theorem readWord_eq_some_iff {esc k v used : Nat} {bits rest : List Bool} :
    readWord esc k bits = some (v, used, rest) ↔
      ∃ word, SpellsWord esc k v word ∧ used = word.length ∧ bits = word ++ rest := by
  constructor
  · intro h
    unfold readWord at h
    split at h
    · cases h
    · next u tail ones =>
      obtain ⟨-, below, rfl⟩ | ⟨no, -, -⟩ := readOnes_eq_some ones
      · split at h
        · cases h
        · next enough =>
          cases h
          have low : (tail.take k).length = k := List.length_take_of_le (Nat.le_of_not_lt enough)
          refine ⟨List.replicate u true ++ false :: tail.take k, .inl ⟨u, _, below, low, rfl, rfl⟩, ?_, ?_⟩
          · simp [low]; omega
          · simp
      · cases no
    · next u tail ones =>
      obtain ⟨no, -, -⟩ | ⟨-, rfl, rfl⟩ := readOnes_eq_some ones
      · cases no
      · split at h
        · cases h
        · next enough =>
          cases h
          have low : (tail.take esc).length = esc := List.length_take_of_le (Nat.le_of_not_lt enough)
          refine ⟨List.replicate 16 true ++ tail.take esc, .inr ⟨_, low, rfl, rfl⟩, ?_, ?_⟩
          · rw [List.length_append, List.length_replicate, low]
          · rw [List.append_assoc, List.take_append_drop]
  · rintro ⟨word, ⟨u, low, below, rfl, rfl, rfl⟩ | ⟨low, rfl, rfl, rfl⟩, rfl, rfl⟩
    · rw [List.append_assoc, List.cons_append, readWord, readOnes_zeroBit below]
      simp; omega
    · rw [List.append_assoc, readWord, readOnes_limit, List.length_append, List.length_replicate]
      simp

theorem readWord_append {esc k v used : Nat} {bits rest : List Bool} (h : readWord esc k bits = some (v, used, rest))
    (more : List Bool) : readWord esc k (bits ++ more) = some (v, used, rest ++ more) := by
  obtain ⟨word, spells, used, rfl⟩ := readWord_eq_some_iff.mp h
  exact readWord_eq_some_iff.mpr ⟨word, spells, used, List.append_assoc ..⟩

theorem SpellsWord.read {esc k v : Nat} {word : List Bool} (h : SpellsWord esc k v word) (rest : List Bool) :
    readWord esc k (word ++ rest) = some (v, word.length, rest) :=
  readWord_eq_some_iff.mpr ⟨word, h, rfl, rfl⟩

theorem SpellsWord.length_pos {esc k v : Nat} {word : List Bool} (h : SpellsWord esc k v word) : 0 < word.length := by
  rcases h with ⟨u, low, -, -, rfl, -⟩ | ⟨low, -, rfl, -⟩ <;> simp

/-- A word cannot be read from fewer bits than it has. -/
theorem SpellsWord.read_take {esc k v : Nat} {word : List Bool} (h : SpellsWord esc k v word) {n : Nat}
    (fewer : n < word.length) : readWord esc k (word.take n) = none := by
  refine Option.eq_none_iff_forall_ne_some.mpr fun ⟨v', used, rest⟩ read => ?_
  obtain ⟨short, -, rfl, front⟩ := readWord_eq_some_iff.mp read
  have again := readWord_append read (word.drop n)
  have whole := h.read []
  rw [List.append_nil, ← List.take_append_drop n word, again] at whole
  have long : short.length = (word.take n ++ word.drop n).length := congrArg (fun x => x.2.1) (Option.some.inj whole)
  have cut := congrArg List.length front
  rw [List.take_append_drop] at long
  rw [List.length_take, List.length_append] at cut
  omega

theorem codeWord_short {k v : Nat} (short : v / 2 ^ k < 16) (esc : Nat) :
    codeWord esc k v = List.replicate (v / 2 ^ k) true ++ false :: natBits k v := if_pos short

theorem codeWord_escape {k v : Nat} (long : ¬ v / 2 ^ k < 16) (esc : Nat) :
    codeWord esc k v = List.replicate 16 true ++ natBits esc v := if_neg long

theorem spellsWord_escape {esc v : Nat} (fits : v < 2 ^ esc) (k : Nat) :
    SpellsWord esc k v (List.replicate 16 true ++ natBits esc v) :=
  .inr ⟨_, length_natBits .., rfl, by rw [bitsNat_natBits, Nat.mod_eq_of_lt fits]⟩

/-- The encoder's word carries its value. -/
theorem spellsWord_codeWord {esc v : Nat} (fits : v < 2 ^ esc) (k : Nat) : SpellsWord esc k v (codeWord esc k v) := by
  by_cases short : v / 2 ^ k < 16
  · rw [codeWord_short short]
    refine .inl ⟨_, _, short, length_natBits .., rfl, ?_⟩
    rw [bitsNat_natBits, Nat.mul_comm, Nat.div_add_mod]
  · rw [codeWord_escape short]
    exact spellsWord_escape fits k

theorem length_codeWord (esc k v : Nat) :
    (codeWord esc k v).length = if v / 2 ^ k < 16 then v / 2 ^ k + 1 + k else 16 + esc := by
  split
  · next short => rw [codeWord_short short]; simp; omega
  · next long => rw [codeWord_escape long, List.length_append, List.length_replicate, length_natBits]

end Sys2Proof.Machine

section

open Sys2Proof Sys2Proof.Machine

/-- Settles O51: a word read back is one that `SpellsWord` describes, and the encoder's words are such. -/
theorem codeWordsReadBack : Obligations.CodeWordsReadBack := by
  refine ⟨⟨rfl, rfl⟩, fun c v some most => ⟨Context.update_cnt some most v, fun below => Context.update_below below v,
    fun full => Context.update_halved full v⟩, fun c => ⟨riceSearch_zero c 7, riceSearch_zero c 12⟩,
    fun esc k v rest fits => ?_⟩
  have spells := spellsWord_codeWord fits k
  refine ⟨?_, length_codeWord esc k v, spells.read rest, fun n => spells.read_take, ?_⟩
  · split
    · next short => rw [codeWord_short short, List.append_assoc]; rfl
    · next long => exact codeWord_escape long esc
  · rw [(spellsWord_escape fits k).read, List.length_append, List.length_replicate, length_natBits]

end

/-! # The checks: the CRC-16 register bit by bit, bursts and two changed bits (R64, R65, R180) -/

namespace Sys2Proof.Machine

/-! ## The bits of a byte -/

/-- The bits of a word as a list, most significant first, with zero bits after its end. -/
theorem getD_map_getMsbD {w : Nat} (x : BitVec w) (i : Nat) :
    ((List.range w).map x.getMsbD).getD i false = x.getMsbD i := by
  by_cases inside : i < w
  · simp [inside]
  · simpa [inside] using (x.getMsbD_of_ge i (Nat.le_of_not_lt inside)).symm

theorem byteBits_eq (b : Byte) : byteBits b = (List.range 8).map b.getMsbD := by
  unfold byteBits natBits
  refine List.map_congr_left fun i hi => ?_
  rw [BitVec.getMsbD, BitVec.getLsbD, decide_eq_true (List.mem_range.mp hi), Bool.true_and]

@[simp] theorem length_byteBits (b : Byte) : (byteBits b).length = 8 := length_natBits ..

theorem byteBits_injective : Function.Injective byteBits := fun a b same => by
  have number := congrArg bitsNat same
  rw [byteBits, byteBits, bitsNat_natBits, bitsNat_natBits, Nat.mod_eq_of_lt a.isLt, Nat.mod_eq_of_lt b.isLt] at number
  exact BitVec.eq_of_toNat_eq number

@[simp] theorem length_flatMap_byteBits (bytes : List Byte) : (bytes.flatMap byteBits).length = 8 * bytes.length := by
  induction bytes with
  | nil => rfl
  | cons b bytes ih => rw [List.flatMap_cons, List.length_append, ih, length_byteBits, List.length_cons]; omega

theorem flatMap_byteBits_injective {xs ys : List Byte} (same : xs.flatMap byteBits = ys.flatMap byteBits) : xs = ys := by
  induction xs generalizing ys with
  | nil =>
    cases ys with
    | nil => rfl
    | cons y ys => exact absurd (congrArg List.length same) (by simp; omega)
  | cons x xs ih =>
    cases ys with
    | nil => exact absurd (congrArg List.length same) (by simp)
    | cons y ys =>
      obtain ⟨first, others⟩ := List.append_inj same (by simp)
      rw [byteBits_injective first, ih others]

/-! ## The register is linear, and no two registers shift to one -/

theorem crc16Shift_xor (r t : Word16) : crc16Shift (r ^^^ t) = crc16Shift r ^^^ crc16Shift t := by
  have twice (x y : Word16) : x ^^^ y = (x ^^^ 0x1021#16) ^^^ (y ^^^ 0x1021#16) := by
    rw [BitVec.xor_assoc, BitVec.xor_comm y, ← BitVec.xor_assoc (0x1021#16), BitVec.xor_self, BitVec.zero_xor]
  unfold crc16Shift
  rw [BitVec.msb_xor, BitVec.shiftLeft_xor_distrib]
  cases r.msb <;> cases t.msb
  · rfl
  · exact BitVec.xor_assoc ..
  · simp only [Bool.xor_false, if_true, Bool.false_eq_true, if_false]
    rw [BitVec.xor_assoc, BitVec.xor_assoc, BitVec.xor_comm (t <<< 1)]
  · exact twice ..

theorem eq_of_xor_eq_zero {r t : Word16} (h : r ^^^ t = 0#16) : r = t := by
  rw [← BitVec.xor_self (x := t)] at h
  exact (BitVec.xor_left_inj t).mp h

theorem eq_zero_of_crc16Shift {r : Word16} (h : crc16Shift r = 0#16) : r = 0#16 := by
  have bit (i : Nat) (x : Word16) : (r <<< 1 ^^^ x).getMsbD i = (r.getMsbD (i + 1) ^^ x.getMsbD i) := by
    rw [BitVec.getMsbD_xor, BitVec.getMsbD_shiftLeft]
  unfold crc16Shift at h
  split at h
  · have last := bit 15 0x1021#16
    rw [h, r.getMsbD_of_ge 16 (Nat.le_refl _)] at last
    exact absurd last (by decide)
  · next top =>
    refine BitVec.eq_of_getMsbD_eq fun i _ => ?_
    rw [BitVec.getMsbD_zero]
    cases i with
    | zero => rw [← BitVec.msb_eq_getMsbD_zero]; exact Bool.eq_false_iff.mpr top
    | succ i => rw [← BitVec.getMsbD_shiftLeft, h, BitVec.getMsbD_zero]

theorem crc16Shift_injective : Function.Injective crc16Shift := fun r t same => by
  refine eq_of_xor_eq_zero (eq_zero_of_crc16Shift ?_)
  rw [crc16Shift_xor, same, BitVec.xor_self]

theorem iterate_crc16Shift_xor (n : Nat) (r t : Word16) :
    crc16Shift^[n] (r ^^^ t) = crc16Shift^[n] r ^^^ crc16Shift^[n] t := by
  induction n generalizing r t with
  | zero => rfl
  | succ n ih => rw [Function.iterate_succ_apply, crc16Shift_xor, ih]; rfl

theorem crc16Byte_eq (r : Word16) (b : Byte) : crc16Byte r b = crc16Shift^[8] (r ^^^ (b ++ 0#8 : Word16)) := rfl

/-! ## The register bit by bit -/

/-- The CRC-16 register after one more bit, which joins its most significant one. -/
def crc16Bit (r : Word16) (b : Bool) : Word16 := crc16Shift (r ^^^ if b then 0x8000#16 else 0#16)

theorem crc16Bit_injective (b : Bool) : Function.Injective (crc16Bit · b) := fun _ _ same =>
  (BitVec.xor_left_inj _).mp (crc16Shift_injective same)

theorem foldl_crc16Bit_injective (bits : List Bool) {r t : Word16} (same : bits.foldl crc16Bit r = bits.foldl crc16Bit t) :
    r = t := by
  induction bits generalizing r t with
  | nil => exact same
  | cons b bits ih => exact crc16Bit_injective b (ih same)

/-- Bits joined to the top of the register at once are the same as one after another. -/
theorem foldl_crc16Bit (bits : List Bool) (r t : Word16) (spells : ∀ i, t.getMsbD i = bits.getD i false) :
    bits.foldl crc16Bit r = crc16Shift^[bits.length] (r ^^^ t) := by
  induction bits generalizing r t with
  | nil =>
    have none : t = 0#16 := BitVec.eq_of_getMsbD_eq fun i _ => by rw [spells, BitVec.getMsbD_zero]; rfl
    rw [none, BitVec.xor_zero]
    rfl
  | cons b bits ih =>
    have top : t.msb = b := by rw [BitVec.msb_eq_getMsbD_zero, spells]; rfl
    have first : crc16Shift t = crc16Shift (if b then 0x8000#16 else 0#16) ^^^ t <<< 1 := by
      rw [crc16Shift, top]
      cases b
      · exact BitVec.zero_xor.symm
      · exact BitVec.xor_comm ..
    rw [List.foldl_cons, ih _ (t <<< 1) fun i => by rw [BitVec.getMsbD_shiftLeft, spells]; rfl, List.length_cons,
      Function.iterate_succ_apply, crc16Shift_xor, first, crc16Bit, crc16Shift_xor, BitVec.xor_assoc]

theorem crc16Byte_eq_foldl (r : Word16) (b : Byte) : crc16Byte r b = (byteBits b).foldl crc16Bit r := by
  rw [crc16Byte_eq, foldl_crc16Bit (byteBits b) r (b ++ 0#8), length_byteBits]
  intro i
  rw [byteBits_eq, getD_map_getMsbD, BitVec.getMsbD_append]
  split
  · next past => rw [BitVec.getMsbD_zero, b.getMsbD_of_ge i past]
  · rfl

theorem crc16_eq_foldl (bytes : List Byte) : crc16 bytes = (bytes.flatMap byteBits).foldl crc16Bit crc16Init := by
  unfold crc16
  generalize crc16Init = r
  induction bytes generalizing r with
  | nil => rfl
  | cons b bytes ih => rw [List.foldl_cons, ih, List.flatMap_cons, List.foldl_append, crc16Byte_eq_foldl]

/-! ## A burst of at most sixteen bits (R65) -/

/-- A register whose top bits are the given ones. -/
theorem exists_spelling {bits : List Bool} (few : bits.length ≤ 16) :
    ∃ t : Word16, ∀ i, t.getMsbD i = bits.getD i false := by
  refine ⟨(BitVec.ofBoolListBE bits ++ 0#(16 - bits.length)).cast (by omega), fun i => ?_⟩
  rw [BitVec.getMsbD_cast, BitVec.getMsbD_append, BitVec.getMsbD_ofBoolListBE]
  split
  · next past => rw [BitVec.getMsbD_zero, List.getD_eq_default _ _ past]
  · rfl

theorem burst_told_apart {a b : List Bool} (few : a.length ≤ 16) (length : a.length = b.length) {r : Word16}
    (same : a.foldl crc16Bit r = b.foldl crc16Bit r) : a = b := by
  obtain ⟨t, ha⟩ := exists_spelling few
  obtain ⟨u, hb⟩ := exists_spelling (length ▸ few)
  rw [foldl_crc16Bit a r t ha, foldl_crc16Bit b r u hb, ← length] at same
  obtain rfl := (BitVec.xor_right_inj r).mp (crc16Shift_injective.iterate a.length same)
  refine List.ext_getElem length fun i i₁ i₂ => ?_
  have bit := (ha i).symm.trans (hb i)
  rwa [List.getD_eq_getElem _ _ i₁, List.getD_eq_getElem _ _ i₂] at bit

/-- Two bit strings of one length that differ within sixteen consecutive bits leave different registers. -/
theorem bits_told_apart {a b : List Bool} {k : Nat} (length : a.length = b.length) (before : a.take k = b.take k)
    (after : a.drop (k + 16) = b.drop (k + 16)) {r : Word16} (same : a.foldl crc16Bit r = b.foldl crc16Bit r) : a = b := by
  have parts (l : List Bool) : l = l.take k ++ ((l.drop k).take 16 ++ l.drop (k + 16)) := by
    rw [← List.drop_drop, List.take_append_drop, List.take_append_drop]
  rw [parts a, parts b, before, after] at same ⊢
  simp only [List.foldl_append] at same
  rw [burst_told_apart (List.length_take_le ..) (by simp [length]) (foldl_crc16Bit_injective _ same)]

/-! ## The period of the register (R64)

The register divides by the polynomial x^16 + x^12 + x^5 + 1. Its shift is a multiplication by x, and squaring
x fifteen times gives x again, so the shift has the period 2^15 − 1. -/

/-- The product of a register, given by its bits, with the register `t`, taken on from `r`. -/
def crc16Times (t : Word16) (bits : List Bool) (r : Word16) : Word16 :=
  bits.foldl (fun r b => crc16Shift r ^^^ if b then t else 0#16) r

/-- The bits of a register, most significant first. -/
def wordBits (r : Word16) : List Bool := (List.range 16).map r.getMsbD

def crc16Square (r : Word16) : Word16 := crc16Times r (wordBits r) 0#16

theorem iterate_crc16Shift_zero (n : Nat) : crc16Shift^[n] 0#16 = 0#16 := Function.iterate_fixed (by decide) n

theorem iterate_crc16Times (n : Nat) (t : Word16) (bits : List Bool) (r : Word16) :
    crc16Shift^[n] (crc16Times t bits r) = crc16Times (crc16Shift^[n] t) bits (crc16Shift^[n] r) := by
  induction bits generalizing r with
  | nil => rfl
  | cons b bits ih =>
    have bit : crc16Shift^[n] (if b then t else 0#16) = if b then crc16Shift^[n] t else 0#16 := by
      cases b
      · exact iterate_crc16Shift_zero n
      · rfl
    show crc16Shift^[n] (crc16Times t bits _) = _
    rw [ih, iterate_crc16Shift_xor, bit, (Function.Commute.refl crc16Shift).iterate_left n r]
    rfl

theorem crc16Times_one (r : Word16) : crc16Times 1#16 (wordBits r) 0#16 = r := by
  have shifted : crc16Times 0x1021#16 (wordBits r) 0#16 = crc16Shift^[16] r := by
    have bit (s : Word16) (b : Bool) : crc16Bit s b = crc16Shift s ^^^ if b then 0x1021#16 else 0#16 := by
      rw [crc16Bit, crc16Shift_xor]
      cases b <;> rfl
    have whole := foldl_crc16Bit (wordBits r) 0#16 r fun i => (getD_map_getMsbD r i).symm
    rw [BitVec.zero_xor, funext fun s => funext (bit s)] at whole
    exact whole
  refine crc16Shift_injective.iterate 16 ?_
  have sixteen : crc16Shift^[16] 1#16 = 0x1021#16 := by decide +kernel
  rw [iterate_crc16Times, iterate_crc16Shift_zero, ← shifted, sixteen]

/-- Shifting `n` times is multiplying with what `n` shifts make of 1. -/
theorem iterate_crc16Shift_eq_times (n : Nat) (r : Word16) :
    crc16Shift^[n] r = crc16Times (crc16Shift^[n] 1#16) (wordBits r) 0#16 := by
  conv_lhs => rw [← crc16Times_one r]
  rw [iterate_crc16Times, iterate_crc16Shift_zero]

theorem iterate_crc16Square (k : Nat) : crc16Square^[k] (crc16Shift 1#16) = crc16Shift^[2 ^ k] 1#16 := by
  induction k with
  | zero => rfl
  | succ k ih =>
    rw [Function.iterate_succ_apply', ih, pow_succ, Nat.mul_two, Function.iterate_add_apply,
      iterate_crc16Shift_eq_times (2 ^ k) (crc16Shift^[2 ^ k] 1#16)]
    rfl

/-- The squares of x, x^2, x^4 and so on come back to x after fifteen (R64). -/
theorem crc16Square_fifteen : crc16Square^[15] 0x0002#16 = 0x0002#16 := by
  have squares : [0x0002#16, 0x0004#16, 0x0010#16, 0x0100#16, 0x1021#16, 0x3730#16, 0xB861#16, 0xAEFC#16, 0x8E29#16,
      0x13FC#16, 0x36C4#16, 0xFD50#16, 0xAA9E#16, 0x881C#16, 0x4458#16].map crc16Square =
    [0x0004#16, 0x0010#16, 0x0100#16, 0x1021#16, 0x3730#16, 0xB861#16, 0xAEFC#16, 0x8E29#16, 0x13FC#16, 0x36C4#16,
      0xFD50#16, 0xAA9E#16, 0x881C#16, 0x4458#16, 0x0002#16] := by decide +kernel
  simp only [List.map_cons, List.cons.injEq] at squares
  simp only [Function.iterate_succ_apply, squares, Function.iterate_zero_apply]

theorem crc16Shift_period {n : Nat} (period : n + 1 = 2 ^ 15) (r : Word16) : crc16Shift^[n] r = r := by
  have x : crc16Shift 1#16 = 0x0002#16 := by decide
  have one : crc16Shift^[n] 1#16 = 1#16 := by
    refine crc16Shift_injective ?_
    rw [← Function.iterate_succ_apply' crc16Shift n, Nat.succ_eq_add_one, period, ← iterate_crc16Square, x, crc16Square_fifteen]
  rw [iterate_crc16Shift_eq_times, one, crc16Times_one]

/-! ## Zero bytes -/

theorem crc16Byte_zero (r : Word16) : crc16Byte r 0#8 = crc16Shift^[8] r := by
  rw [crc16Byte_eq, BitVec.zero_append_zero, BitVec.xor_zero]

theorem foldl_crc16Byte_zeros (n : Nat) (r : Word16) :
    (List.replicate n 0#8).foldl crc16Byte r = crc16Shift^[8 * n] r := by
  induction n generalizing r with
  | zero => rfl
  | succ n ih => rw [List.replicate_succ, List.foldl_cons, ih, crc16Byte_zero, ← Function.iterate_add_apply]; rfl

/-- The first bit of a row of bytes and its last bit change the check alike where they stand 2^15 − 1 places apart. -/
theorem crc16_first_and_last_bit {n : Nat} (apart : 8 + 8 * n + 8 = 2 ^ 15) :
    crc16 (0x80#8 :: List.replicate n 0#8 ++ [0x01#8]) = crc16 (0x00#8 :: List.replicate n 0#8 ++ [0x00#8]) := by
  have first (r : Word16) : crc16Byte r 0x80#8 = crc16Byte r 0x00#8 ^^^ crc16Shift^[8] 0x8000#16 := by
    rw [crc16Byte_zero, crc16Byte_eq, iterate_crc16Shift_xor]
    rfl
  have last (r : Word16) : crc16Byte r 0x01#8 = crc16Byte r 0x00#8 ^^^ 0x1021#16 := by
    have low : crc16Shift^[8] 0x0100#16 = 0x1021#16 := by decide
    rw [crc16Byte_zero, ← low, crc16Byte_eq, ← iterate_crc16Shift_xor]
    rfl
  have between : crc16Shift^[8] (crc16Shift^[8 * n] (crc16Shift^[8] 0x8000#16)) = 0x1021#16 := by
    have count : 8 + 8 * n + 8 = (8 + 8 * n + 7) + 1 := rfl
    have top : crc16Shift 0x8000#16 = 0x1021#16 := by decide
    rw [← Function.iterate_add_apply, ← Function.iterate_add_apply, count, Function.iterate_succ_apply, top,
      crc16Shift_period apart]
  unfold crc16
  generalize crc16Init = r
  simp only [List.foldl_append, List.foldl_cons, List.foldl_nil, foldl_crc16Byte_zeros]
  rw [last, first, iterate_crc16Shift_xor, crc16Byte_zero, iterate_crc16Shift_xor, between, ← crc16Byte_zero,
    BitVec.xor_assoc, BitVec.xor_self, BitVec.xor_zero]

/-- A change of the first element and of the last. -/
theorem modify_first_last {α : Type} (f g : α → α) (a b : α) (l : List α) :
    (((a :: l) ++ [b]).modify (l.length + 1) g).modify 0 f = f a :: l ++ [g b] := by
  have last : ((a :: l) ++ [b]).modify (l.length + 1) g = (a :: l) ++ [g b] :=
    List.modifyTailIdx_add (List.modifyHead g) 0 (a :: l) [b]
  rw [last]
  rfl

end Sys2Proof.Machine

section

open Sys2Proof Sys2Proof.Machine

/-- Settles O54: from the bits before the burst one register comes, and the bits after it keep registers apart. -/
theorem checksTellBurstsApart : Obligations.ChecksTellBurstsApart := by
  refine ⟨by decide +kernel, by decide +kernel, fun xs ys k length differ before after same => differ ?_⟩
  rw [crc16_eq_foldl, crc16_eq_foldl] at same
  exact flatMap_byteBits_injective (bits_told_apart (by simp [length]) before after same)

/-- Refutes O55: over 4096 zero bytes, the first bit and the last changed together keep the check. -/
theorem not_checksTellTwoBitsApart : ¬ Obligations.ChecksTellTwoBitsApart := fun told => by
  obtain ⟨n, hn⟩ : ∃ n, n = 4094 := ⟨_, rfl⟩
  have length : (List.replicate n 0#8).length = n := List.length_replicate
  have size : (0#8 :: List.replicate n 0#8 ++ [0#8]).length = n + 2 := by simp
  refine told (0#8 :: List.replicate n 0#8 ++ [0#8]) 0 ((List.replicate n 0#8).length + 1) 7 0 (by omega) (by omega)
    (by omega) (by simp) ?_
  dsimp only
  rw [modify_first_last]
  exact crc16_first_and_last_bit (by omega)

end

/-! # The band code: one code word of the encoder and of the decoder (Table 3-8, R66) -/

namespace Sys2Proof.Machine

/-! ## Neighbours, prediction and residuals (R47 to R52) -/

theorem neighbours_first {c : Coding} (row : c.row = 0) (column : c.current.length = 0) :
    neighbours c = ⟨128, 128, 128⟩ := by
  unfold neighbours
  rw [if_pos row, if_pos column]

theorem getD_last {xs : List Byte} {x : Byte} (last : xs.getLast? = some x) :
    xs.length ≠ 0 ∧ xs.getD (xs.length - 1) 0 = x := by
  refine ⟨fun none => ?_, ?_⟩
  · rw [List.length_eq_zero_iff.mp none] at last
    cases last
  · rw [List.getD_eq_getElem?_getD, ← List.getLast?_eq_getElem?, last]
    rfl

theorem neighbours_row_zero {c : Coding} {x : Byte} (row : c.row = 0) (last : c.current.getLast? = some x) :
    neighbours c = ⟨x, x, x⟩ := by
  obtain ⟨column, left⟩ := getD_last last
  unfold neighbours
  rw [if_pos row, if_neg column, left]

theorem neighbours_column_zero {c : Coding} {x : Byte} (row : 0 < c.row) (column : c.current.length = 0)
    (up : c.above[0]? = some x) : neighbours c = ⟨x, x, x⟩ := by
  have b : c.above.getD 0 0 = x := by rw [List.getD_eq_getElem?_getD, up]; rfl
  unfold neighbours
  rw [if_neg (Nat.ne_of_gt row), if_pos column, column, b]

theorem neighbours_inside {c : Coding} {x y z : Byte} (row : 0 < c.row) (last : c.current.getLast? = some x)
    (up : c.above[c.current.length]? = some y) (corner : c.above[c.current.length - 1]? = some z) :
    neighbours c = ⟨x, y, z⟩ := by
  obtain ⟨column, left⟩ := getD_last last
  have b : c.above.getD c.current.length 0 = y := by rw [List.getD_eq_getElem?_getD, up]; rfl
  have d : c.above.getD (c.current.length - 1) 0 = z := by rw [List.getD_eq_getElem?_getD, corner]; rfl
  unfold neighbours
  rw [if_neg (Nat.ne_of_gt row), if_neg column, left, b, d]

theorem activityClass_cases (g : Nat) : (g = 0 → activityClass g = 0) ∧ (1 ≤ g → g ≤ 7 → activityClass g = 1) ∧
    (8 ≤ g → g ≤ 31 → activityClass g = 2) ∧ (32 ≤ g → activityClass g = 3) := by
  unfold activityClass
  refine ⟨fun h => if_pos h, fun h h' => ?_, fun h h' => ?_, fun h => ?_⟩
  · rw [if_neg (by omega), if_pos h']
  · rw [if_neg (by omega), if_neg (by omega), if_pos h']
  · rw [if_neg (by omega), if_neg (by omega), if_neg (by omega)]

theorem clamp_eq {lo hi : Int} (order : lo ≤ hi) (x : Int) : clamp lo hi x = max lo (min hi x) := by
  unfold clamp
  split
  · omega
  · split <;> omega

theorem prediction_eq (n : Neighbours) : prediction n = max (min (n.a.toNat : Int) n.b.toNat)
    (min (max (n.a.toNat : Int) n.b.toNat) (n.a.toNat + n.b.toNat - n.c.toNat)) :=
  clamp_eq (by omega) _

theorem prediction_range (n : Neighbours) : 0 ≤ prediction n ∧ prediction n ≤ 255 := by
  have := n.a.isLt
  have := n.b.isLt
  rw [prediction_eq]
  omega

theorem sampleDistance_eq (x y : Byte) : (sampleDistance x y : Int) = |(x.toNat : Int) - y.toNat| := Int.natCast_natAbs _

theorem activity_eq (n : Neighbours) :
    (activity n : Int) = |(n.a.toNat : Int) - n.c.toNat| + |(n.b.toNat : Int) - n.c.toNat| := by
  rw [activity, Nat.cast_add, sampleDistance_eq, sampleDistance_eq]

theorem activity_le (n : Neighbours) : activity n ≤ 510 := by
  have := n.a.isLt
  have := n.b.isLt
  have := n.c.isLt
  unfold activity sampleDistance
  omega

theorem quantise_eq (tol : Nat) (e : Int) :
    quantise tol e = (if e < 0 then -1 else 1) * ((|e| + tol) / (2 * tol + 1)) := by
  have size : ((((e.natAbs + tol) / (2 * tol + 1) : Nat)) : Int) = (|e| + tol) / (2 * tol + 1) := by
    push_cast [Int.natCast_natAbs]
    rfl
  rw [quantise, size]
  rcases lt_trichotomy e 0 with neg | rfl | pos
  · rw [if_pos neg, Int.sign_eq_neg_one_of_neg neg]
  · rw [abs_zero, Int.zero_add, Int.ediv_eq_zero_of_lt (by omega) (by omega), Int.mul_zero, Int.mul_zero]
  · rw [if_neg (by omega), Int.sign_eq_one_of_pos pos]

/-- The step of the quantiser is 2T + 1, so rounding loses at most T (R50). -/
theorem quantise_near (tol : Nat) (e : Int) : |quantise tol e * (2 * tol + 1) - e| ≤ tol := by
  have step : (0 : Int) < 2 * tol + 1 := by omega
  have whole := Int.emod_add_ediv_mul (|e| + tol) (2 * tol + 1)
  have least := Int.emod_nonneg (|e| + tol) (ne_of_gt step)
  have most := Int.emod_lt_of_pos (|e| + tol) step
  rw [quantise_eq]
  generalize (|e| + tol) / (2 * tol + 1) = q at *
  rw [abs_le]
  split
  · next neg => rw [abs_of_neg neg] at *; rw [Int.neg_mul, Int.one_mul, Int.neg_mul]; constructor <;> linarith
  · next pos => rw [abs_of_nonneg (Int.not_lt.mp pos)] at *; rw [Int.one_mul]; constructor <;> linarith

theorem quantise_le (tol : Nat) (e : Int) : |quantise tol e| ≤ |e| := by
  have size : (e.natAbs + tol) / (2 * tol + 1) < e.natAbs + 1 := by
    refine Nat.div_lt_of_lt_mul ?_
    rw [Nat.mul_succ, Nat.add_mul, Nat.one_mul]
    omega
  have sign : e.sign.natAbs ≤ 1 := by
    rw [Int.natAbs_sign]
    split <;> decide
  rw [← Int.natCast_natAbs, ← Int.natCast_natAbs, quantise, Int.natAbs_mul, Int.natAbs_natCast]
  exact Int.ofNat_le.mpr ((Nat.mul_le_mul_right _ sign).trans (by rw [Nat.one_mul]; exact Nat.le_of_lt_succ size))

theorem mapResidual_eq (q : Int) : (mapResidual q : Int) = if 0 ≤ q then 2 * q else -2 * q - 1 := by
  unfold mapResidual
  split <;> omega

theorem unmapResidual_eq (m : Nat) : unmapResidual m = if m % 2 = 0 then (m : Int) / 2 else -((m + 1 : Int) / 2) := by
  unfold unmapResidual
  split <;> omega

theorem unmapResidual_mapResidual (q : Int) : unmapResidual (mapResidual q) = q := by
  have value := mapResidual_eq q
  rw [unmapResidual_eq]
  split at value <;> split <;> omega

theorem reconstruct_eq (tol : Nat) (p q : Int) :
    ((reconstruct tol p q).toNat : Int) = max 0 (min 255 (p + q * (2 * tol + 1))) := by
  rw [reconstruct, clamp_eq (by omega), BitVec.toNat_ofNat]
  omega

/-- A sample whose prediction lies in range is rebuilt within the tolerance, and its mapped value fits the
escape (R50 to R52). -/
theorem residual_bounds (tol : Nat) (x : Byte) {p : Int} (low : 0 ≤ p) (high : p ≤ 255) :
    let q := quantise tol ((x.toNat : Int) - p)
    |((reconstruct tol p q).toNat : Int) - x.toNat| ≤ tol ∧ mapResidual q ≤ 510 := by
  intro q
  have sample := x.isLt
  have near : |q * (2 * tol + 1) - ((x.toNat : Int) - p)| ≤ tol := quantise_near tol _
  have size : |q| ≤ 255 := (quantise_le tol _).trans (abs_le.mpr (by omega))
  have value := mapResidual_eq q
  rw [reconstruct_eq]
  rw [abs_le] at near size ⊢
  constructor
  · constructor <;> omega
  · split at value <;> omega

theorem runLength_eq (tol : Nat) (v : Byte) (xs : List Byte) : runLength tol v xs =
    (xs.takeWhile fun x => decide (|(x.toNat : Int) - v.toNat| ≤ tol)).length := by
  induction xs with
  | nil => rfl
  | cons x xs ih =>
    have same : sampleDistance x v ≤ tol ↔ |(x.toNat : Int) - v.toNat| ≤ tol := by
      rw [← sampleDistance_eq, Int.ofNat_le]
    unfold runLength
    rw [List.takeWhile_cons, ih]
    by_cases near : sampleDistance x v ≤ tol
    · rw [if_pos near, decide_eq_true (same.mp near)]
      rfl
    · rw [if_neg near, decide_eq_false (mt same.mpr near)]
      rfl

/-! ## One code word of a row (Table 3-8)

Encoder and decoder go through the same states, word by word: the state says whether a regular word or a run
word comes next, a word carries a value, and the value takes the state on. -/

/-- A regular word comes next: a break is pending or the activity is not 0 (R57, R59). -/
abbrev Coding.Regular (c : Coding) : Prop := c.breakValue.isSome ∨ activity (neighbours c) ≠ 0

/-- The activity class of the next sample. -/
def Coding.cls (c : Coding) : Fin 4 := activityClass (activity (neighbours c))

/-- The next word, where it carries `v`. -/
def Coding.word (v : Nat) (c : Coding) : List Bool :=
  if c.Regular then codeWord 9 (riceRegular c.regular[c.cls]) v else codeWord 15 (riceRun c.run) v

/-- The next word read from the front of the bits. -/
def Coding.read (bits : List Bool) (c : Coding) : Option (Nat × Nat × List Bool) :=
  if c.Regular then readWord 9 (riceRegular c.regular[c.cls]) bits else readWord 15 (riceRun c.run) bits

/-- The value that the next word carries where the row goes on with `x :: xs`. -/
def Coding.value (tol : Nat) (x : Byte) (xs : List Byte) (c : Coding) : Nat :=
  if c.Regular then mapResidual (quantise tol ((x.toNat : Int) - prediction (neighbours c)))
  else runLength tol (neighbours c).a (x :: xs)

/-- How many samples the next word stands for, where it carries `v`. -/
def Coding.span (v : Nat) (c : Coding) : Nat := if c.Regular then 1 else v

/-- The largest value the next word may carry with `left` samples left in the row (Table 3-10). -/
def Coding.limit (left : Nat) (c : Coding) : Nat := if c.Regular then 510 else left

/-- The state after the next word, where it carries `v` and `left` samples were left in the row. -/
def Coding.carry (tol left v : Nat) (c : Coding) : Coding :=
  if c.Regular then
    { c with regular := c.regular.set c.cls (c.regular[c.cls].update v)
             current := c.current ++ [reconstruct tol (prediction (neighbours c)) (unmapResidual v)]
             breakValue := none }
  else
    { c with run := c.run.update v
             current := c.current ++ List.replicate v (neighbours c).a
             breakValue := if v < left then some (neighbours c).a else none }

/-- The state after a word was written to the stream. -/
def Coding.wrote (word output : List Bool) (c : Coding) : Coding :=
  { c with bitCount := c.bitCount + word.length
           check := checkOver c.check output.length (output ++ word) }

section

variable (tol left v : Nat) (c : Coding)

theorem Coding.carry_regular {c : Coding} (h : c.Regular) : c.carry tol left v =
    { c with regular := c.regular.set c.cls (c.regular[c.cls].update v)
             current := c.current ++ [reconstruct tol (prediction (neighbours c)) (unmapResidual v)]
             breakValue := none } := if_pos h

theorem Coding.carry_run {c : Coding} (h : ¬ c.Regular) : c.carry tol left v =
    { c with run := c.run.update v
             current := c.current ++ List.replicate v (neighbours c).a
             breakValue := if v < left then some (neighbours c).a else none } := if_neg h

@[simp] theorem Coding.carry_row : (c.carry tol left v).row = c.row := by unfold Coding.carry; split <;> rfl
@[simp] theorem Coding.carry_bitCount : (c.carry tol left v).bitCount = c.bitCount := by unfold Coding.carry; split <;> rfl
@[simp] theorem Coding.carry_stopped : (c.carry tol left v).stopped = c.stopped := by unfold Coding.carry; split <;> rfl
@[simp] theorem Coding.carry_check : (c.carry tol left v).check = c.check := by unfold Coding.carry; split <;> rfl

@[simp] theorem Coding.length_carry_current :
    (c.carry tol left v).current.length = c.current.length + c.span v := by
  unfold Coding.carry Coding.span
  split
  · rw [List.length_append, List.length_singleton]
  · rw [List.length_append, List.length_replicate]

/-- The running check and the stop leave the next word as it is. -/
theorem Coding.carry_congr (b : Bool) (k : Word16) :
    Coding.carry tol left v { c with stopped := b, check := k } = { c.carry tol left v with stopped := b, check := k } := by
  by_cases h : c.Regular
  · rw [Coding.carry_regular _ _ _ h]
    exact Coding.carry_regular tol left v (c := { c with stopped := b, check := k }) h
  · rw [Coding.carry_run _ _ _ h]
    exact Coding.carry_run tol left v (c := { c with stopped := b, check := k }) h

end

/-! ## The encoder's word -/

theorem encodeRegular_eq {c : Coding} (h : c.Regular) (tol raw : Nat) (x : Byte) (xs : List Byte) (out : List Bool) :
    encodeRegular tol raw x c out =
      let v := c.value tol x xs
      if 8 * raw < c.bitCount + (c.word v).length then none
      else some ((c.carry tol (xs.length + 1) v).wrote (c.word v) out, out ++ c.word v) := by
  have value : c.value tol x xs = mapResidual (quantise tol ((x.toNat : Int) - prediction (neighbours c))) := if_pos h
  have word (v : Nat) : c.word v = codeWord 9 (riceRegular c.regular[c.cls]) v := if_pos h
  dsimp only
  rw [Coding.carry_regular _ _ _ h, word, value, unmapResidual_mapResidual]
  split
  · next past => exact congrArg (Option.map _) (if_pos past)
  · next fits => exact congrArg (Option.map _) (if_neg fits)

theorem encodeRun_eq {c : Coding} (h : ¬ c.Regular) (tol raw : Nat) (x : Byte) (xs : List Byte) (out : List Bool) :
    encodeRun tol raw (x :: xs) c out =
      let v := c.value tol x xs
      if 8 * raw < c.bitCount + (c.word v).length then none
      else some ((c.carry tol (xs.length + 1) v).wrote (c.word v) out, out ++ c.word v) := by
  have value : c.value tol x xs = runLength tol (neighbours c).a (x :: xs) := if_neg h
  have word (v : Nat) : c.word v = codeWord 15 (riceRun c.run) v := if_neg h
  dsimp only
  rw [Coding.carry_run _ _ _ h, word, value]
  split
  · next past => exact congrArg (Option.map _) (if_pos past)
  · next fits => exact congrArg (Option.map _) (if_neg fits)

/-- One word of a row: it is written and takes the state on, or coding stops at it (R62). -/
theorem encodeRest_cons (raw n : Nat) {tol v : Nat} {x : Byte} {xs : List Byte} {c : Coding} (value : c.value tol x xs = v)
    (out : List Bool) : encodeRest tol raw (n + 1) (x :: xs) c out =
      if 8 * raw < c.bitCount + (c.word v).length then ({ c with stopped := true }, out)
      else encodeRest tol raw n ((x :: xs).drop (c.span v)) ((c.carry tol (xs.length + 1) v).wrote (c.word v) out)
        (out ++ c.word v) := by
  subst value
  rw [encodeRest]
  have span : ((c.carry tol (xs.length + 1) (c.value tol x xs)).wrote (c.word (c.value tol x xs)) out).current.length -
      c.current.length = c.span (c.value tol x xs) :=
    (congrArg (· - c.current.length) (Coding.length_carry_current ..)).trans (Nat.add_sub_cancel_left ..)
  by_cases regular : c.Regular
  · have one (v : Nat) : c.span v = 1 := if_pos regular
    rw [if_pos regular, encodeRegular_eq regular tol raw x xs out, one]
    by_cases past : 8 * raw < c.bitCount + (c.word (c.value tol x xs)).length
    · rw [if_pos past, if_pos past]
    · rw [if_neg past, if_neg past]
      rfl
  · rw [if_neg regular, encodeRun_eq regular tol raw x xs out]
    by_cases past : 8 * raw < c.bitCount + (c.word (c.value tol x xs)).length
    · rw [if_pos past, if_pos past]
    · rw [if_neg past, if_neg past, ← span]

/-! ## How many words a row takes -/

theorem runLength_le (tol : Nat) (v : Byte) (xs : List Byte) : runLength tol v xs ≤ xs.length := by
  rw [runLength_eq]
  exact (List.takeWhile_sublist _).length_le

/-- A regular word stands for one sample and ends the break; a run word leaves a break where it does not reach
the row's end. -/
theorem Coding.carry_cases (tol : Nat) (x : Byte) (xs : List Byte) (c : Coding) :
    let v := c.value tol x xs
    let c' := c.carry tol (xs.length + 1) v
    (c.Regular ∧ c.span v = 1 ∧ c'.breakValue = none) ∨
      (¬ c.Regular ∧ c.breakValue = none ∧ c.span v = v ∧ v ≤ xs.length + 1 ∧
        (c'.breakValue = none ↔ v = xs.length + 1)) := by
  intro v c'
  by_cases h : c.Regular
  · exact .inl ⟨h, if_pos h, congrArg Coding.breakValue (Coding.carry_regular _ _ _ h)⟩
  · have value : v = runLength tol (neighbours c).a (x :: xs) := if_neg h
    have most : v ≤ xs.length + 1 := value ▸ runLength_le ..
    have broken : c'.breakValue = if v < xs.length + 1 then some (neighbours c).a else none :=
      congrArg Coding.breakValue (Coding.carry_run _ _ _ h)
    refine .inr ⟨h, ?_, if_neg h, most, ?_⟩
    · simpa using not_or.mp h |>.1
    · rw [broken]
      split <;> simp <;> omega

/-- The most words that the rest `xs` of a row takes: two a sample, one less after a run's break. -/
def Coding.wordsLeft (xs : List Byte) (c : Coding) : Nat := 2 * xs.length - if c.breakValue.isSome then 1 else 0

theorem Coding.wordsLeft_carry (tol : Nat) (x : Byte) (xs : List Byte) (word out : List Bool) (c : Coding) :
    let v := c.value tol x xs
    ((c.carry tol (xs.length + 1) v).wrote word out).wordsLeft ((x :: xs).drop (c.span v)) < c.wordsLeft (x :: xs) := by
  intro v
  show 2 * _ - (if (c.carry tol (xs.length + 1) v).breakValue.isSome then 1 else 0) < _
  unfold Coding.wordsLeft
  rw [List.length_drop, List.length_cons]
  rcases c.carry_cases tol x xs with ⟨-, span, none⟩ | ⟨-, before, span, most, none⟩
  · rw [span, none]
    cases c.breakValue <;> simp; omega
  · rw [span, before]
    cases after : (c.carry tol (xs.length + 1) (c.value tol x xs)).breakValue with
    | none => have := none.mp after; simp; omega
    | some a => simp; omega

/-- More fuel than the row takes words changes nothing. -/
theorem encodeRest_enough {tol raw n m : Nat} {xs : List Byte} {c : Coding} (enough : c.wordsLeft xs < n) (more : n ≤ m)
    (out : List Bool) : encodeRest tol raw m xs c out = encodeRest tol raw n xs c out := by
  induction n generalizing m xs c out with
  | zero => exact absurd enough (Nat.not_lt_zero _)
  | succ n ih =>
    obtain ⟨m, rfl⟩ := Nat.exists_eq_succ_of_ne_zero (Nat.ne_of_gt (Nat.lt_of_lt_of_le n.succ_pos more))
    cases xs with
    | nil => rfl
    | cons x xs =>
      rw [encodeRest_cons raw n rfl, encodeRest_cons raw m rfl]
      split
      · rfl
      · exact ih (Nat.lt_of_lt_of_le (c.wordsLeft_carry tol x xs _ out) (Nat.le_of_lt_succ enough))
          (Nat.le_of_succ_le_succ more) _

theorem encodeLine_eq {tol raw n : Nat} {line : List Byte} (enough : 2 * line.length + 1 ≤ n) (c : Coding)
    (out : List Bool) :
    encodeLine tol raw line c out = if c.stopped then (c, out) else encodeRest tol raw n line c out := by
  have words : c.wordsLeft line ≤ 2 * line.length := Nat.sub_le ..
  unfold encodeLine
  rw [encodeRest_enough (n := 2 * line.length + 1) (by omega) (Nat.le_succ _),
    encodeRest_enough (n := 2 * line.length + 1) (by omega) enough]

end Sys2Proof.Machine

section

open Sys2Proof Sys2Proof.Machine

/-- Settles O50: the tables and the arithmetic by their own lemmas, each sample by `encodeRest_cons`. -/
theorem samplesCodedWithinTolerance : Obligations.SamplesCodedWithinTolerance := by
  refine ⟨fun c => ⟨neighbours_first, fun x => neighbours_row_zero, fun x => neighbours_column_zero,
    fun x y z => neighbours_inside⟩, activityClass_cases, runLength_eq, fun tol raw n x xs c out => ?_,
    fun tol raw n line c out => ⟨rfl, fun enough => encodeLine_eq enough c out⟩,
    fun n => ⟨prediction_eq n, (prediction_range n).1, (prediction_range n).2, activity_eq n, activity_le n⟩,
    fun tol x p _ low high => ?_⟩
  · intro g k q m len regular word wrote
    have mode : regular ↔ c.Regular := by rw [Coding.Regular, Option.isSome_iff_ne_none]
    by_cases h : c.Regular
    · have spelled : word = c.word m := (if_pos (mode.mpr h)).trans (if_pos h).symm
      have span : c.span m = 1 := if_pos h
      have next : (c.carry tol (xs.length + 1) m).wrote word out =
          { wrote with regular := c.regular.set k (c.regular[k].update m)
                       current := c.current ++ [reconstruct tol (prediction g) q]
                       breakValue := none } := by
        rw [Coding.carry_regular _ _ _ h, unmapResidual_mapResidual]
        rfl
      rw [encodeRest_cons raw n (if_pos h : c.value tol x xs = m), ← spelled, span, next, if_pos (mode.mpr h)]
      rfl
    · have spelled : word = c.word len := (if_neg (mt mode.mp h)).trans (if_neg h).symm
      have span : c.span len = len := if_neg h
      have next : (c.carry tol (xs.length + 1) len).wrote word out =
          { wrote with run := c.run.update len
                       current := c.current ++ List.replicate len g.a
                       breakValue := if len < xs.length + 1 then some g.a else none } := by
        rw [Coding.carry_run _ _ _ h]
        rfl
      rw [encodeRest_cons raw n (if_neg h : c.value tol x xs = len), ← spelled, span, next, if_neg (mt mode.mp h)]
  · intro e q r
    obtain ⟨near, fits⟩ := residual_bounds tol x low high
    exact ⟨quantise_eq tol e, quantise_near tol e, reconstruct_eq tol p q, near, mapResidual_eq q, fits,
      unmapResidual_mapResidual q⟩

end

/-! # The decoder: word by word, and fed unit by unit (R66 to R68, R93, Table 3-10) -/

namespace Sys2Proof.Machine

/-! ## One word -/

theorem Coding.read_word {v left : Nat} {c : Coding} (fits : v ≤ c.limit left) (width : left < 2 ^ 15)
    (rest : List Bool) : c.read (c.word v ++ rest) = some (v, (c.word v).length, rest) := by
  unfold Coding.read Coding.word
  by_cases h : c.Regular
  · have most : v ≤ 510 := fits.trans_eq (if_pos h)
    rw [if_pos h, if_pos h]
    exact (spellsWord_codeWord (by omega) _).read rest
  · have most : v ≤ left := fits.trans_eq (if_neg h)
    rw [if_neg h, if_neg h]
    exact (spellsWord_codeWord (by omega) _).read rest

theorem Coding.read_append {c : Coding} {v used : Nat} {bits rest : List Bool} (h : c.read bits = some (v, used, rest))
    (more : List Bool) : c.read (bits ++ more) = some (v, used, rest ++ more) := by
  unfold Coding.read at *
  split at h
  · next regular => rw [if_pos regular]; exact readWord_append h more
  · next run => rw [if_neg run]; exact readWord_append h more

/-- A word takes at least one bit. -/
theorem Coding.read_shorter {c : Coding} {v used : Nat} {bits rest : List Bool} (h : c.read bits = some (v, used, rest)) :
    rest.length < bits.length := by
  have shorter {esc k : Nat} (h : readWord esc k bits = some (v, used, rest)) : rest.length < bits.length := by
    obtain ⟨word, spells, -, rfl⟩ := readWord_eq_some_iff.mp h
    have := spells.length_pos
    rw [List.length_append]
    omega
  unfold Coding.read at h
  split at h <;> exact shorter h

/-- What a word that was read makes of the decoder: a finding, or its samples (R66, Table 3-10). -/
def Decoding.carry (p : DecodeShape) (v used : Nat) (rest : List Bool) (d : Decoding) : Decoding :=
  let left := p.width - d.coding.current.length
  if d.coding.limit left < v then { d with malformed := true }
  else
    Decoding.closeRow p
      { d with unread := rest, coding := { d.coding.carry p.tol left v with bitCount := d.coding.bitCount + used } }

theorem Decoding.carry_over {p : DecodeShape} {v : Nat} {d : Decoding}
    (beyond : d.coding.limit (p.width - d.coding.current.length) < v) (used : Nat) (rest : List Bool) :
    d.carry p v used rest = { d with malformed := true } := if_pos beyond

theorem Decoding.carry_within {p : DecodeShape} {v : Nat} {d : Decoding}
    (within : v ≤ d.coding.limit (p.width - d.coding.current.length)) (used : Nat) (rest : List Bool) :
    d.carry p v used rest =
      Decoding.closeRow p
        { d with unread := rest
                 coding := { d.coding.carry p.tol (p.width - d.coding.current.length) v with
                   bitCount := d.coding.bitCount + used } } := if_neg (Nat.not_lt.mpr within)

theorem decodeRegular_eq (p : DecodeShape) {d : Decoding} (h : d.coding.Regular) :
    decodeRegular p d = (d.coding.read d.unread).map fun x => d.carry p x.1 x.2.1 x.2.2 := by
  have read : d.coding.read d.unread = readWord 9 (riceRegular d.coding.regular[d.coding.cls]) d.unread := if_pos h
  have limit (left : Nat) : d.coding.limit left = 510 := if_pos h
  unfold Decoding.carry
  dsimp only
  simp only [read, limit, Coding.carry_regular _ _ _ h]
  rfl

theorem decodeRun_eq (p : DecodeShape) {d : Decoding} (h : ¬ d.coding.Regular) :
    decodeRun p d = (d.coding.read d.unread).map fun x => d.carry p x.1 x.2.1 x.2.2 := by
  have read : d.coding.read d.unread = readWord 15 (riceRun d.coding.run) d.unread := if_neg h
  have limit (left : Nat) : d.coding.limit left = left := if_neg h
  unfold Decoding.carry
  dsimp only
  simp only [read, limit, Coding.carry_run _ _ _ h]
  rfl

theorem decodeWord_eq (p : DecodeShape) (d : Decoding) :
    (if d.coding.Regular then decodeRegular p d else decodeRun p d) =
      (d.coding.read d.unread).map fun x => d.carry p x.1 x.2.1 x.2.2 := by
  split
  · next h => exact decodeRegular_eq p h
  · next h => exact decodeRun_eq p h

/-- A word is read: no finding was made, samples are missing, and the bits hold the word. -/
def Decoding.Reads (p : DecodeShape) (d : Decoding) (v used : Nat) (rest : List Bool) : Prop :=
  d.malformed = false ∧ d.coding.row < p.lines ∧ d.coding.read d.unread = some (v, used, rest)

/-- Decoding goes no further. -/
def Decoding.Halts (p : DecodeShape) (d : Decoding) : Prop :=
  d.malformed = true ∨ p.lines ≤ d.coding.row ∨ d.coding.read d.unread = none

theorem Decoding.halts_or_reads (p : DecodeShape) (d : Decoding) : d.Halts p ∨ ∃ v used rest, d.Reads p v used rest := by
  by_cases malformed : d.malformed = true
  · exact .inl (.inl malformed)
  by_cases rebuilt : p.lines ≤ d.coding.row
  · exact .inl (.inr (.inl rebuilt))
  cases read : d.coding.read d.unread with
  | none => exact .inl (.inr (.inr read))
  | some x => exact .inr ⟨x.1, x.2.1, x.2.2, Bool.eq_false_iff.mpr malformed, Nat.lt_of_not_le rebuilt, read⟩

variable {p : DecodeShape}

theorem decodeOn_halted {d : Decoding} (h : d.Halts p) (n : Nat) : decodeOn p n d = d := by
  cases n with
  | zero => rfl
  | succ n =>
    rw [decodeOn]
    by_cases ended : (d.malformed || d.rebuilt p) = true
    · exact if_pos ended
    · have read : d.coding.read d.unread = none := by
        obtain ⟨sound, rows⟩ : d.malformed = false ∧ d.coding.row < p.lines := by simpa [Decoding.rebuilt] using ended
        rcases h with malformed | rebuilt | read
        · rw [sound] at malformed
          cases malformed
        · omega
        · exact read
      rw [if_neg ended, decodeWord_eq, read]
      rfl

theorem decodeOn_reads {d : Decoding} {v used : Nat} {rest : List Bool} (h : d.Reads p v used rest) (n : Nat) :
    decodeOn p (n + 1) d = decodeOn p n (d.carry p v used rest) := by
  obtain ⟨malformed, rows, read⟩ := h
  have going : ¬ (d.malformed || d.rebuilt p) = true := by simpa [malformed, Decoding.rebuilt] using rows
  rw [decodeOn, if_neg going, decodeWord_eq, read]
  rfl

/-- What each word of a decoding keeps, the decoding keeps. -/
theorem decodeOn_keeps {P : Decoding → Prop}
    (word : ∀ {d v used rest}, Decoding.Reads p d v used rest → P d → P (d.carry p v used rest)) (n : Nat) {d : Decoding}
    (h : P d) : P (decodeOn p n d) := by
  induction n generalizing d with
  | zero => exact h
  | succ n ih =>
    rcases d.halts_or_reads p with halts | ⟨v, used, rest, reads⟩
    · rw [decodeOn_halted halts]
      exact h
    · rw [decodeOn_reads reads]
      exact ih (word reads h)

theorem decodeOn_succ (n : Nat) (d : Decoding) : decodeOn p (n + 1) d = decodeOn p n (decodeOn p 1 d) := by
  rcases d.halts_or_reads p with halts | ⟨v, used, rest, reads⟩
  · rw [decodeOn_halted halts, decodeOn_halted halts, decodeOn_halted halts]
  · rw [decodeOn_reads reads, decodeOn_reads reads]
    rfl

theorem decodeOn_succ_last (n : Nat) (d : Decoding) : decodeOn p (n + 1) d = decodeOn p 1 (decodeOn p n d) := by
  induction n generalizing d with
  | zero => rfl
  | succ n ih => rw [decodeOn_succ, ih, ← decodeOn_succ]

/-! ## Decoding as far as the bits reach -/

theorem Decoding.closeRow_unread (d : Decoding) : (d.closeRow p).unread = d.unread := by
  unfold Decoding.closeRow
  split <;> rfl

/-- A word that was read leaves a finding or fewer bits. -/
theorem Decoding.carry_ends_or_unread (v used : Nat) (rest : List Bool) (d : Decoding) :
    (d.carry p v used rest).malformed = true ∨ (d.carry p v used rest).unread = rest := by
  unfold Decoding.carry
  dsimp only
  split
  · exact .inl rfl
  · exact .inr (Decoding.closeRow_unread _)

/-- As many words as there are bits are enough. -/
theorem decodeOn_halts {n : Nat} {d : Decoding} (enough : d.unread.length ≤ n) : (decodeOn p n d).Halts p := by
  induction n generalizing d with
  | zero =>
    rcases d.halts_or_reads p with halts | ⟨v, used, rest, -, -, read⟩
    · exact halts
    · have := Coding.read_shorter read
      omega
  | succ n ih =>
    rcases d.halts_or_reads p with halts | ⟨v, used, rest, reads⟩
    · rw [decodeOn_halted halts]
      exact halts
    · rw [decodeOn_reads reads]
      rcases d.carry_ends_or_unread (p := p) v used rest with malformed | unread
      · rw [decodeOn_halted (.inl malformed)]
        exact .inl malformed
      · have := Coding.read_shorter reads.2.2
        exact ih (by rw [unread]; omega)

/-- The decoder when the bits it holds are decoded as far as they reach. -/
def Decoding.settled (p : DecodeShape) (d : Decoding) : Decoding := decodeOn p d.unread.length d

theorem Decoding.settled_halts (d : Decoding) : (d.settled p).Halts p := decodeOn_halts (Nat.le_refl _)

theorem Decoding.settled_of_halts {d : Decoding} (h : d.Halts p) : d.settled p = d := decodeOn_halted h _

theorem Decoding.settled_eq {n : Nat} {d : Decoding} (enough : d.unread.length ≤ n) : d.settled p = decodeOn p n d := by
  obtain ⟨k, rfl⟩ := Nat.exists_eq_add_of_le enough
  clear enough
  induction k with
  | zero => rfl
  | succ k ih => rw [← Nat.add_assoc, decodeOn_succ_last, ← ih, decodeOn_halted d.settled_halts]

theorem Decoding.settled_reads {d : Decoding} {v used : Nat} {rest : List Bool} (h : d.Reads p v used rest) :
    d.settled p = (d.carry p v used rest).settled p := by
  have shorter := Coding.read_shorter h.2.2
  rcases d.carry_ends_or_unread (p := p) v used rest with malformed | unread
  · rw [Decoding.settled_of_halts (.inl malformed), Decoding.settled_eq (Nat.le_succ _), decodeOn_reads h,
      decodeOn_halted (.inl malformed)]
  · rw [Decoding.settled_eq (d := d.carry p v used rest) (n := d.unread.length) (by rw [unread]; omega),
      Decoding.settled_eq (d := d) (Nat.le_succ _), decodeOn_reads h]

/-! ## One unit more -/

/-- A unit's bytes are handed over, and not yet decoded (R93). -/
def Decoding.receive (bytes : List Byte) (d : Decoding) : Decoding :=
  { d with unitsRead := d.unitsRead + 1
           unread := d.unread ++ bytes.flatMap byteBits
           coding := { d.coding with check := bytes.foldl crc16Byte d.coding.check } }

theorem Decoding.Reads.receive {d : Decoding} {v used : Nat} {rest : List Bool} (h : d.Reads p v used rest)
    (bytes : List Byte) : (d.receive bytes).Reads p v used (rest ++ bytes.flatMap byteBits) := by
  obtain ⟨malformed, rows, read⟩ := h
  exact ⟨malformed, rows, Coding.read_append (c := { d.coding with check := bytes.foldl crc16Byte d.coding.check }) read _⟩

theorem Decoding.closeRow_receive (bytes : List Byte) (d : Decoding) :
    (d.receive bytes).closeRow p = (d.closeRow p).receive bytes := by
  have same : (d.receive bytes).coding.current = d.coding.current := rfl
  unfold Decoding.closeRow
  rw [same]
  by_cases h : d.coding.current.length < p.width
  · rw [if_pos h, if_pos h]
  · rw [if_neg h, if_neg h]
    rfl

theorem Decoding.carry_receive (bytes : List Byte) (v used : Nat) (rest : List Bool) (d : Decoding) :
    (d.receive bytes).carry p v used (rest ++ bytes.flatMap byteBits) = (d.carry p v used rest).receive bytes := by
  rcases Nat.lt_or_ge (d.coding.limit (p.width - d.coding.current.length)) v with beyond | within
  · rw [Decoding.carry_over beyond, Decoding.carry_over (d := d.receive bytes) beyond]
    rfl
  · have next := Coding.carry_congr p.tol (p.width - d.coding.current.length) v d.coding d.coding.stopped
      (bytes.foldl crc16Byte d.coding.check)
    rw [Decoding.carry_within within, Decoding.carry_within (d := d.receive bytes) within, ← Decoding.closeRow_receive]
    unfold Decoding.receive
    dsimp only
    rw [next]
    simp

/-- Bits that came earlier may be decoded first. -/
theorem Decoding.settled_receive (bytes : List Byte) (d : Decoding) :
    ((d.settled p).receive bytes).settled p = (d.receive bytes).settled p :=
  decodeOn_keeps (P := fun x => (x.receive bytes).settled p = (d.receive bytes).settled p)
    (fun {x v used rest} reads same => by rw [← Decoding.carry_receive, ← Decoding.settled_reads (reads.receive bytes), same])
    _ rfl

theorem Decoding.settled_unitsRead (d : Decoding) : (d.settled p).unitsRead = d.unitsRead := by
  have closed (x : Decoding) : (x.closeRow p).unitsRead = x.unitsRead := by
    unfold Decoding.closeRow
    split <;> rfl
  refine decodeOn_keeps (P := fun x => x.unitsRead = d.unitsRead) (fun {x v used rest} _ same => ?_) _ rfl
  unfold Decoding.carry
  dsimp only
  split
  · exact same
  · rw [closed]
    exact same

theorem Decoding.feed_raw {e : IndexEntry} (raw : e.mode = .raw) (bytes : List Byte) (d : Decoding) :
    d.feed p e bytes =
      { d with unitsRead := d.unitsRead + 1
               samples := d.samples ++ bytes
               coding := { d.coding with check := bytes.foldl crc16Byte d.coding.check } } := by
  unfold Decoding.feed
  rw [raw]

theorem Decoding.feed_coded {e : IndexEntry} (coded : e.mode = .coded) (bytes : List Byte) (d : Decoding) :
    d.feed p e bytes =
      if unitCount e.offset e.length ≤ d.unitsRead + 1 ∧ ((d.receive bytes).settled p).coding.row < p.lines then
        { (d.receive bytes).settled p with malformed := true }
      else (d.receive bytes).settled p := by
  have judged : (((d.receive bytes).settled p).allRead e && !((d.receive bytes).settled p).rebuilt p) = true ↔
      unitCount e.offset e.length ≤ d.unitsRead + 1 ∧ ((d.receive bytes).settled p).coding.row < p.lines := by
    have units : ((d.receive bytes).settled p).unitsRead = d.unitsRead + 1 := Decoding.settled_unitsRead _
    generalize (d.receive bytes).settled p = x at units
    simp [Decoding.allRead, Decoding.rebuilt, units]
  unfold Decoding.feed
  rw [coded]
  exact if_congr judged rfl rfl

/-! ## The outcome (R65, R68) -/

section

variable {e : IndexEntry} {d : Decoding}

theorem Decoding.verdict_raw (entry : d.entry = some e) (raw : e.mode = .raw) :
    d.verdict p = if unitCount e.offset e.length ≤ d.unitsRead then some (d.checked e) else none := by
  rw [Decoding.verdict, entry]
  dsimp only
  rw [raw]
  exact if_congr decide_eq_true_iff rfl rfl

theorem Decoding.verdict_malformed (entry : d.entry = some e) (coded : e.mode = .coded) (malformed : d.malformed = true) :
    d.verdict p = some .damage := by
  rw [Decoding.verdict, entry]
  dsimp only
  rw [coded]
  exact if_pos malformed

theorem Decoding.verdict_unfinished (entry : d.entry = some e) (coded : e.mode = .coded) (sound : d.malformed = false)
    (rows : ¬ p.lines ≤ d.coding.row) : d.verdict p = none := by
  rw [Decoding.verdict, entry]
  dsimp only
  rw [coded, sound, Decoding.rebuilt, decide_eq_false rows]
  rfl

theorem Decoding.verdict_rebuilt (entry : d.entry = some e) (coded : e.mode = .coded) (sound : d.malformed = false)
    (rows : p.lines ≤ d.coding.row) : d.verdict p =
      if (d.coding.bitCount + 7) / 8 < e.length then some .damage
      else if unitCount e.offset e.length ≤ d.unitsRead then some (d.checked e) else none := by
  rw [Decoding.verdict, entry]
  dsimp only
  rw [coded, sound, Decoding.rebuilt, decide_eq_true rows]
  exact (if_neg Bool.false_ne_true).trans ((if_pos rfl).trans (if_congr Iff.rfl rfl (if_congr decide_eq_true_iff rfl rfl)))

theorem Decoding.checked_verified_iff (xs : List Byte) :
    d.checked e = .verified xs ↔ xs = d.samples ∧ d.coding.check = e.check := by
  unfold Decoding.checked
  split
  · next same => simp [same, eq_comm]
  · next other => simp [other]

theorem Decoding.checked_damage_iff : d.checked e = .damage ↔ d.coding.check ≠ e.check := by
  unfold Decoding.checked
  split
  · next same => simp [same]
  · next other => simp [other]

theorem Decoding.verdict_verified_iff (entry : d.entry = some e) (xs : List Byte) :
    d.verdict p = some (.verified xs) ↔
      xs = d.samples ∧ d.coding.check = e.check ∧ unitCount e.offset e.length ≤ d.unitsRead ∧
        (e.mode = .coded → d.malformed = false ∧ p.lines ≤ d.coding.row ∧ e.length ≤ (d.coding.bitCount + 7) / 8) := by
  cases mode : e.mode with
  | raw =>
    rw [Decoding.verdict_raw entry mode]
    split
    · next allIn => simp [Decoding.checked_verified_iff, allIn]
    · next waits => simp [waits]
  | coded =>
    cases sound : d.malformed with
    | true => simp [Decoding.verdict_malformed entry mode sound]
    | false =>
      by_cases rows : p.lines ≤ d.coding.row
      · rw [Decoding.verdict_rebuilt entry mode sound rows]
        split
        · next excess => simp; omega
        · next whole =>
          split
          · next allIn => simp [Decoding.checked_verified_iff, allIn, rows]; omega
          · next waits => simp [waits]
      · simp [Decoding.verdict_unfinished entry mode sound rows, rows]

theorem Decoding.verdict_damage_iff (entry : d.entry = some e) :
    d.verdict p = some .damage ↔
      (e.mode = .coded ∧ (d.malformed = true ∨ p.lines ≤ d.coding.row ∧ (d.coding.bitCount + 7) / 8 < e.length)) ∨
        (unitCount e.offset e.length ≤ d.unitsRead ∧ d.coding.check ≠ e.check ∧
          (e.mode = .coded → p.lines ≤ d.coding.row)) := by
  cases mode : e.mode with
  | raw =>
    rw [Decoding.verdict_raw entry mode]
    split
    · next allIn => simp [Decoding.checked_damage_iff, allIn]
    · next waits => simp [waits]
  | coded =>
    cases sound : d.malformed with
    | true => simp [Decoding.verdict_malformed entry mode sound]
    | false =>
      by_cases rows : p.lines ≤ d.coding.row
      · rw [Decoding.verdict_rebuilt entry mode sound rows]
        split
        · next left => simp [left, rows]
        · next whole =>
          split
          · next allIn => simp [Decoding.checked_damage_iff, allIn, rows, whole]
          · next waits => simp [waits, whole]
      · simp [Decoding.verdict_unfinished entry mode sound rows, rows]

end

end Sys2Proof.Machine

section

open Sys2Proof Sys2Proof.Machine

/-- Settles O30: the outcome case by case, and each word by `decodeOn_reads`. -/
theorem verifiedNeedsEveryByteAndCheck : Obligations.VerifiedNeedsEveryByteAndCheck := by
  refine ⟨fun p d e entry => ⟨Decoding.verdict_verified_iff entry, Decoding.verdict_damage_iff entry⟩,
    fun p e bytes d => ⟨fun raw => Decoding.feed_raw raw bytes d, fun coded => Decoding.feed_coded coded bytes d,
      decodeOn_halted (d.receive bytes).settled_halts 1⟩,
    fun p n d => ⟨decodeOn_succ n d, fun ended => decodeOn_halted (ended.imp_right .inl) n⟩,
    fun p d sound rows => ?_⟩
  intro c g k left regular read rowClosed
  have mode : regular ↔ c.Regular := by rw [Coding.Regular, Option.isSome_iff_ne_none]
  have reads : read = c.read d.unread := if_congr mode rfl rfl
  refine ⟨fun none => decodeOn_halted (.inr (.inr (reads ▸ none))) 1, fun value used rest some => ?_⟩
  rw [decodeOn_reads ⟨sound, rows, reads ▸ some⟩ 0]
  by_cases h : c.Regular
  · have limit : c.limit left = 510 := if_pos h
    rw [if_pos (mode.mpr h)]
    split
    · next beyond => exact Decoding.carry_over (limit.trans_lt beyond) used rest
    · next within =>
      rw [← unmapResidual_eq]
      refine (Decoding.carry_within (limit ▸ Nat.not_lt.mp within) used rest).trans ?_
      rw [Coding.carry_regular _ _ _ h]
      rfl
  · have limit : c.limit left = left := if_neg h
    rw [if_neg (mt mode.mp h)]
    split
    · next beyond => exact Decoding.carry_over (limit.trans_lt beyond) used rest
    · next within =>
      refine (Decoding.carry_within (limit ▸ Nat.not_lt.mp within) used rest).trans ?_
      rw [Coding.carry_run _ _ _ h]
      rfl

end

/-! # When coding stops, and the stored bytes (R56, R61, R62, R64) -/

namespace Sys2Proof.Machine

/-! ## The stored bytes are the stream, most significant bits first (R56) -/

theorem byteBits_ofNat {bits : List Bool} (eight : bits.length = 8) : byteBits (BitVec.ofNat 8 (bitsNat bits)) = bits := by
  have small := bitsNat_lt bits
  rw [eight] at small
  rw [byteBits, BitVec.toNat_ofNat, Nat.mod_eq_of_lt small, ← eight, natBits_bitsNat]

theorem flatMap_packBytes {n : Nat} {bits : List Bool} (fits : bits.length ≤ 8 * n) :
    (packBytes n bits).flatMap byteBits = bits ++ List.replicate (8 * n - bits.length) false := by
  induction n generalizing bits with
  | zero => rw [List.length_eq_zero_iff.mp (Nat.le_zero.mp fits)]; rfl
  | succ n ih =>
    rw [packBytes, List.flatMap_cons, byteBits_ofNat (by simp), ih (by rw [List.length_drop]; omega)]
    rcases Nat.le_total 8 bits.length with whole | part
    · have rest : 8 * n - (bits.length - 8) = 8 * (n + 1) - bits.length := by omega
      rw [List.take_append_of_le_length whole, ← List.append_assoc, List.take_append_drop, List.length_drop, rest]
    · have pad : 8 * (n + 1) - bits.length = (8 - bits.length) + 8 * n := by omega
      rw [List.drop_eq_nil_of_le part, List.take_append, List.take_of_length_le part, List.take_replicate,
        Nat.min_eq_left (Nat.sub_le ..), pad, List.replicate_add, List.append_assoc]
      rfl

theorem length_codedBytes (bits : List Bool) : (codedBytes bits).length = (bits.length + 7) / 8 := length_packBytes ..

theorem flatMap_codedBytes (bits : List Bool) : (codedBytes bits).flatMap byteBits =
    bits ++ List.replicate (8 * ((bits.length + 7) / 8) - bits.length) false := by
  have fits : bits.length ≤ 8 * ((bits.length + 7) / 8) := by omega
  exact flatMap_packBytes fits

/-! ## Every word counts against the raw size (R62) -/

/-- The bit count is that of the stream, which keeps within the raw size. -/
def Coding.Sized (raw : Nat) (c : Coding) (out : List Bool) : Prop := c.bitCount = out.length ∧ out.length ≤ 8 * raw

theorem Coding.wrote_bitCount (tol left v : Nat) (word out : List Bool) (c : Coding) :
    ((c.carry tol left v).wrote word out).bitCount = c.bitCount + word.length :=
  congrArg (· + word.length) (c.carry_bitCount tol left v)

theorem Coding.Sized.wrote {raw : Nat} {c : Coding} {out : List Bool} (h : c.Sized raw out) {word : List Bool}
    (fits : ¬ 8 * raw < c.bitCount + word.length) (tol left v : Nat) :
    ((c.carry tol left v).wrote word out).Sized raw (out ++ word) := by
  obtain ⟨count, -⟩ := h
  unfold Coding.Sized
  rw [Coding.wrote_bitCount, List.length_append]
  omega

theorem encodeRest_sized {tol raw : Nat} (n : Nat) (xs : List Byte) {c : Coding} {out : List Bool} (h : c.Sized raw out) :
    (encodeRest tol raw n xs c out).1.Sized raw (encodeRest tol raw n xs c out).2 := by
  induction n generalizing xs c out with
  | zero => exact h
  | succ n ih =>
    cases xs with
    | nil => exact h
    | cons x xs =>
      rw [encodeRest_cons raw n rfl]
      split
      · exact h
      · next fits => exact ih _ (h.wrote fits ..)

/-- Coding only adds to the stream. -/
theorem encodeRest_grows (tol raw n : Nat) (xs : List Byte) (c : Coding) (out : List Bool) :
    out <+: (encodeRest tol raw n xs c out).2 :=
  encodeRest_keeps (P := fun _ o => out <+: o)
    (fun written before => by
      obtain ⟨word, -, rfl⟩ := written.stream
      exact before.trans (List.prefix_append ..))
    id id _ _ _ _ _ _ (List.prefix_refl out)

theorem encodeLine_stopped {c : Coding} (stopped : c.stopped = true) (tol raw : Nat) (line : List Byte) (out : List Bool) :
    encodeLine tol raw line c out = (c, out) := if_pos stopped

theorem encodeLine_going {c : Coding} (going : c.stopped = false) (tol raw : Nat) (line : List Byte) (out : List Bool) :
    encodeLine tol raw line c out = encodeRest tol raw (2 * line.length + 2) line c out := by
  rw [encodeLine, going]
  rfl

/-- A line whose coding did not stop was begun with coding going on. -/
theorem going_of_encodeLine {tol raw : Nat} {line : List Byte} {c : Coding} {out : List Bool}
    (going : (encodeLine tol raw line c out).1.stopped = false) : c.stopped = false := by
  by_contra stopped
  rw [encodeLine_stopped (Bool.eq_true_of_not_eq_false stopped)] at going
  exact stopped going

theorem encodeLine_grows (tol raw : Nat) (line : List Byte) (c : Coding) (out : List Bool) :
    out <+: (encodeLine tol raw line c out).2 := by
  unfold encodeLine
  split
  · exact List.prefix_refl out
  · exact encodeRest_grows ..

theorem encodeRows_sized (tol raw : Nat) (rows : List (List Byte)) :
    (encodeRows tol raw rows).1.Sized raw (encodeRows tol raw rows).2 := by
  induction rows using List.reverseRecOn with
  | nil => exact ⟨rfl, Nat.zero_le _⟩
  | append_singleton rows row ih =>
    rw [encodeRows_append]
    unfold encodeLine
    split
    · exact ih
    · exact encodeRest_sized _ _ ih

/-! ## No plane-band takes eight times its raw size -/

theorem length_codeWord_le {esc k : Nat} (short : k ≤ esc) (v : Nat) : (codeWord esc k v).length ≤ 16 + esc := by
  rw [length_codeWord]
  split <;> omega

theorem Coding.length_word_le (v : Nat) (c : Coding) : (c.word v).length ≤ if c.Regular then 25 else 31 := by
  unfold Coding.word
  split
  · exact length_codeWord_le ((riceRegular_le _).trans (by decide)) v
  · exact length_codeWord_le ((riceRun_le _).trans (by decide)) v

/-- The most bits that the rest `xs` of a row takes: a run word and a regular word a sample, the run word less
after a run's break. -/
def Coding.bitsLeft (xs : List Byte) (c : Coding) : Nat := 56 * xs.length - if c.breakValue.isSome then 31 else 0

theorem Coding.bitsLeft_carry (tol : Nat) (x : Byte) (xs : List Byte) (out : List Bool) (c : Coding) :
    let v := c.value tol x xs
    (c.word v).length + ((c.carry tol (xs.length + 1) v).wrote (c.word v) out).bitsLeft ((x :: xs).drop (c.span v)) ≤
      c.bitsLeft (x :: xs) := by
  intro v
  have most := c.length_word_le v
  show _ + (56 * _ - (if (c.carry tol (xs.length + 1) v).breakValue.isSome then 31 else 0)) ≤ _
  unfold Coding.bitsLeft
  rw [List.length_drop, List.length_cons]
  rcases c.carry_cases tol x xs with ⟨regular, span, none⟩ | ⟨run, before, span, -, none⟩
  · rw [if_pos regular] at most
    rw [span, none]
    cases c.breakValue <;> simp <;> omega
  · rw [if_neg run] at most
    rw [span, before]
    cases after : (c.carry tol (xs.length + 1) (c.value tol x xs)).breakValue with
    | none => have := none.mp after; simp; omega
    | some a => simp; omega

theorem encodeRest_roomy {tol raw : Nat} (n : Nat) (xs : List Byte) {c : Coding} (out : List Bool) (going : c.stopped = false)
    (room : c.bitCount + c.bitsLeft xs ≤ 8 * raw) :
    (encodeRest tol raw n xs c out).1.stopped = false ∧
      (encodeRest tol raw n xs c out).1.bitCount ≤ c.bitCount + c.bitsLeft xs := by
  induction n generalizing xs c out with
  | zero => exact ⟨going, Nat.le_add_right ..⟩
  | succ n ih =>
    cases xs with
    | nil => exact ⟨going, Nat.le_add_right ..⟩
    | cons x xs =>
      have left := c.bitsLeft_carry tol x xs out
      dsimp only at left
      rw [encodeRest_cons raw n rfl, if_neg (by omega)]
      obtain ⟨still, count⟩ := ih ((x :: xs).drop (c.span (c.value tol x xs)))
        (c := (c.carry tol (xs.length + 1) (c.value tol x xs)).wrote (c.word (c.value tol x xs)) out)
        (out ++ c.word (c.value tol x xs)) ((c.carry_stopped ..).trans going) (by rw [Coding.wrote_bitCount]; omega)
      rw [Coding.wrote_bitCount] at count
      exact ⟨still, by omega⟩

/-- With seven times the raw size for a limit coding never stops. -/
theorem encodeRows_roomy {tol raw width : Nat} {rows : List (List Byte)} (wide : ∀ row ∈ rows, row.length = width)
    (room : 7 * (width * rows.length) ≤ raw) :
    (encodeRows tol raw rows).1.stopped = false ∧ (encodeRows tol raw rows).1.bitCount ≤ 56 * (width * rows.length) := by
  induction rows using List.reverseRecOn with
  | nil => exact ⟨rfl, Nat.zero_le _⟩
  | append_singleton rows row ih =>
    rw [List.length_append, List.length_singleton, Nat.mul_succ] at *
    obtain ⟨going, count⟩ := ih (fun r hr => wide r (List.mem_append_left _ hr)) (by omega)
    have length : row.length = width := wide row (by simp)
    have left : (encodeRows tol raw rows).1.bitsLeft row ≤ 56 * width := length ▸ Nat.sub_le ..
    rw [encodeRows_append, encodeLine_going going]
    obtain ⟨still, most⟩ := encodeRest_roomy (2 * row.length + 2) row (encodeRows tol raw rows).2 going
      (by omega : _ ≤ 8 * raw)
    exact ⟨still, by omega⟩

/-! ## A limit stops coding or changes nothing -/

/-- Against the whole stream, coding with the limit is the same, or it stopped where the whole stream passes the
limit. -/
def StopsAt (raw : Nat) (x whole : Coding × List Bool) : Prop :=
  (x = whole ∧ whole.2.length ≤ 8 * raw) ∨ (x.1.stopped = true ∧ 8 * raw < whole.2.length)

theorem encodeRest_stopsAt {tol raw big : Nat} (n : Nat) (xs : List Byte) {c : Coding} {out : List Bool}
    (h : c.Sized raw out) (whole : (encodeRest tol big n xs c out).1.stopped = false) :
    StopsAt raw (encodeRest tol raw n xs c out) (encodeRest tol big n xs c out) := by
  induction n generalizing xs c out with
  | zero => exact .inl ⟨rfl, h.2⟩
  | succ n ih =>
    cases xs with
    | nil => exact .inl ⟨rfl, h.2⟩
    | cons x xs =>
      rw [encodeRest_cons big n rfl] at whole ⊢
      rw [encodeRest_cons raw n rfl]
      split at whole
      · cases whole
      · next fits =>
        rw [if_neg fits]
        split
        · next past =>
          have grows := (encodeRest_grows tol big n ((x :: xs).drop (c.span (c.value tol x xs)))
            ((c.carry tol (xs.length + 1) (c.value tol x xs)).wrote (c.word (c.value tol x xs)) out)
            (out ++ c.word (c.value tol x xs))).length_le
          rw [List.length_append] at grows
          exact .inr ⟨rfl, by have := h.1; omega⟩
        · next within => exact ih _ (h.wrote within ..) whole

theorem StopsAt.encodeLine {tol raw big : Nat} {x w : Coding × List Bool} (h : StopsAt raw x w) (sized : x.1.Sized raw x.2)
    (line : List Byte) (whole : (encodeLine tol big line w.1 w.2).1.stopped = false) :
    StopsAt raw (encodeLine tol raw line x.1 x.2) (encodeLine tol big line w.1 w.2) := by
  rcases h with ⟨rfl, -⟩ | ⟨stopped, past⟩
  · have going := going_of_encodeLine whole
    rw [encodeLine_going going] at whole
    rw [encodeLine_going going, encodeLine_going going]
    exact encodeRest_stopsAt _ _ sized whole
  · rw [encodeLine_stopped stopped]
    exact .inr ⟨stopped, Nat.lt_of_lt_of_le past (encodeLine_grows ..).length_le⟩

theorem encodeRows_stopsAt {tol big : Nat} (raw : Nat) {rows : List (List Byte)}
    (whole : (encodeRows tol big rows).1.stopped = false) : StopsAt raw (encodeRows tol raw rows) (encodeRows tol big rows) := by
  induction rows using List.reverseRecOn with
  | nil => exact .inl ⟨rfl, Nat.zero_le _⟩
  | append_singleton rows row ih =>
    rw [encodeRows_append] at whole
    rw [encodeRows_append, encodeRows_append]
    exact (ih (going_of_encodeLine whole)).encodeLine (encodeRows_sized ..) row whole

end Sys2Proof.Machine

section

open Sys2Proof Sys2Proof.Machine

/-- Settles O52: the whole stream keeps within its own limit, and against it the given limit stops coding or
changes nothing. -/
theorem codingStopsPastRawSize : Obligations.CodingStopsPastRawSize := by
  refine ⟨fun bits => ⟨length_codedBytes bits, flatMap_codedBytes bits⟩, byteBits_eq,
    fun tol raw width rows _ _ _ wide => ?_⟩
  intro x whole
  obtain ⟨count, within⟩ := encodeRows_sized tol raw rows
  have going : whole.1.stopped = false := (encodeRows_roomy wide (by rw [Nat.mul_assoc]; omega)).1
  refine ⟨count, within, encodeRows_checked tol raw rows, going, ?_⟩
  rcases encodeRows_stopsAt raw going with ⟨same, fits⟩ | ⟨stopped, past⟩
  · have still : x.1.stopped = false := (congrArg (·.1.stopped) same).trans going
    exact ⟨⟨fun stopped => absurd (still.symm.trans stopped) Bool.false_ne_true, fun past => absurd past (Nat.not_lt.mpr fits)⟩,
      fun _ => same⟩
  · exact ⟨⟨fun _ => past, fun _ => stopped⟩, fun still => absurd (still.symm.trans stopped) Bool.false_ne_true⟩

end

/-! # A coded plane-band decoded again (R61, R63, R66, R93) -/

namespace Sys2Proof.Machine

/-! ## One word keeps every sample within the tolerance -/

/-- A rebuilt sample lies within the tolerance of the composed one. -/
def Near (tol : Nat) (y z : Byte) : Prop := |(y.toNat : Int) - z.toNat| ≤ tol

theorem runLength_near (tol : Nat) (v : Byte) (xs : List Byte) :
    List.Forall₂ (Near tol) (List.replicate (runLength tol v xs) v) (xs.take (runLength tol v xs)) := by
  induction xs with
  | nil => exact .nil
  | cons x xs ih =>
    unfold runLength
    split
    · next near =>
      have close : Near tol v x := by
        rw [Near, abs_sub_comm, ← sampleDistance_eq]
        exact Int.ofNat_le.mpr near
      exact .cons close ih
    · exact .nil

theorem Coding.value_le_limit (tol : Nat) (x : Byte) (xs : List Byte) (c : Coding) :
    c.value tol x xs ≤ c.limit (xs.length + 1) := by
  obtain ⟨low, high⟩ := prediction_range (neighbours c)
  unfold Coding.value Coding.limit
  split
  · exact (residual_bounds tol x low high).2
  · exact runLength_le tol _ (x :: xs)

/-- The samples that a word rebuilds are near those it stands for. -/
theorem Coding.carry_near (tol : Nat) (x : Byte) (xs : List Byte) (c : Coding) :
    ∃ ys, (c.carry tol (xs.length + 1) (c.value tol x xs)).current = c.current ++ ys ∧
      List.Forall₂ (Near tol) ys ((x :: xs).take (c.span (c.value tol x xs))) := by
  obtain ⟨low, high⟩ := prediction_range (neighbours c)
  by_cases h : c.Regular
  · have value : c.value tol x xs = mapResidual (quantise tol ((x.toNat : Int) - prediction (neighbours c))) := if_pos h
    have span : c.span (c.value tol x xs) = 1 := if_pos h
    rw [span, Coding.carry_regular _ _ _ h, value, unmapResidual_mapResidual]
    exact ⟨_, rfl, .cons (residual_bounds tol x low high).1 .nil⟩
  · have value : c.value tol x xs = runLength tol (neighbours c).a (x :: xs) := if_neg h
    have span : c.span (c.value tol x xs) = runLength tol (neighbours c).a (x :: xs) := (if_neg h).trans value
    rw [span, Coding.carry_run _ _ _ h, value]
    exact ⟨_, rfl, runLength_near ..⟩

/-! ## The decoder follows the encoder -/

/-- The decoder `d` with the encoder's coding state `c`. -/
def Decoding.inStep (c : Coding) (unread : List Bool) (samples : List Byte) (d : Decoding) : Decoding :=
  { d with unread := unread, samples := samples
           coding := { c with stopped := d.coding.stopped, check := d.coding.check } }

variable {p : DecodeShape}

/-- Reading the encoder's next word takes the decoder to the encoder's next state. -/
theorem Decoding.settled_word {c : Coding} {x : Byte} {xs : List Byte} {d : Decoding} (width : p.width < 2 ^ 15)
    (rows : c.row < p.lines) (columns : c.current.length + (xs.length + 1) = p.width) (sound : d.malformed = false)
    (out rest : List Bool) (samples : List Byte) :
    let v := c.value p.tol x xs
    (d.inStep c (c.word v ++ rest) samples).settled p =
      ((d.inStep ((c.carry p.tol (xs.length + 1) v).wrote (c.word v) out) rest samples).closeRow p).settled p := by
  intro v
  have fits : v ≤ c.limit (xs.length + 1) := c.value_le_limit ..
  have left : p.width - c.current.length = xs.length + 1 := by omega
  have reads : (d.inStep c (c.word v ++ rest) samples).Reads p v (c.word v).length rest :=
    ⟨sound, rows, Coding.read_word (left := xs.length + 1) fits (by omega) rest⟩
  have next := c.carry_congr p.tol (xs.length + 1) v d.coding.stopped d.coding.check
  rw [Decoding.settled_reads reads, Decoding.carry_within (left.symm ▸ fits)]
  unfold Decoding.inStep
  dsimp only
  rw [left, next]
  unfold Coding.wrote
  simp

theorem Decoding.closeRow_open {c : Coding} (short : c.current.length < p.width) (unread : List Bool) (samples : List Byte)
    (d : Decoding) : (d.inStep c unread samples).closeRow p = d.inStep c unread samples := if_pos short

theorem Decoding.closeRow_full {c : Coding} (full : c.current.length = p.width) (unread : List Bool) (samples : List Byte)
    (d : Decoding) : (d.inStep c unread samples).closeRow p = d.inStep c.endRow unread (samples ++ c.current) :=
  if_neg (Nat.not_lt.mpr full.ge)

/-- What one written word of a row `xs` does: `more` of the row is left, the coding state is `c'`, and a decoder that
reads the word rebuilds `ys`. -/
structure Codes (p : DecodeShape) (xs : List Byte) (c : Coding) (word : List Bool) (more : List Byte) (c' : Coding)
    (ys : List Byte) : Prop where
  row : c'.row = c.row
  current : c'.current = c.current ++ ys
  near : ∃ done, done ++ more = xs ∧ List.Forall₂ (Near p.tol) ys done
  words : c'.wordsLeft more < c.wordsLeft xs
  decodes : c.row < p.lines → c.current.length + xs.length = p.width → ∀ d : Decoding, d.malformed = false →
    ∀ rest samples, (d.inStep c (word ++ rest) samples).settled p = ((d.inStep c' rest samples).closeRow p).settled p

/-- Coding that does not stop goes on word by word. -/
theorem encodeRest_codes {raw n : Nat} {xs : List Byte} {c : Coding} {out : List Bool} (width : p.width < 2 ^ 15)
    (nonempty : xs ≠ []) (going : (encodeRest p.tol raw (n + 1) xs c out).1.stopped = false) :
    ∃ word more c' ys, Codes p xs c word more c' ys ∧
      encodeRest p.tol raw (n + 1) xs c out = encodeRest p.tol raw n more c' (out ++ word) := by
  obtain ⟨x, xs, rfl⟩ := List.exists_cons_of_ne_nil nonempty
  obtain ⟨ys, samples, near⟩ := c.carry_near p.tol x xs
  rw [encodeRest_cons raw n rfl] at going ⊢
  split at going
  · cases going
  · next fits =>
    refine ⟨_, _, _, ys, ?_, if_neg fits⟩
    exact
      { row := c.carry_row ..
        current := samples
        near := ⟨_, List.take_append_drop .., near⟩
        words := c.wordsLeft_carry p.tol x xs _ out
        decodes := fun rows columns d sound => Decoding.settled_word width rows columns sound out }

/-- The rest of a row, coded, takes the decoder to the next row, its samples near the row's. -/
theorem encodeRest_decodes {raw n : Nat} {xs : List Byte} {c : Coding} {out : List Bool} (width : p.width < 2 ^ 15)
    (rows : c.row < p.lines) (enough : c.wordsLeft xs < n) (nonempty : xs ≠ [])
    (columns : c.current.length + xs.length = p.width) (going : (encodeRest p.tol raw n xs c out).1.stopped = false) :
    let y := encodeRest p.tol raw n xs c out
    y.1.row = c.row + 1 ∧ y.1.current = [] ∧ ∃ bits ys, y.2 = out ++ bits ∧ List.Forall₂ (Near p.tol) ys xs ∧
      ∀ d : Decoding, d.malformed = false → ∀ rest samples, (d.inStep c (bits ++ rest) samples).settled p =
        (d.inStep y.1 rest (samples ++ (c.current ++ ys))).settled p := by
  induction n generalizing xs c out with
  | zero => exact absurd enough (Nat.not_lt_zero _)
  | succ n ih =>
    intro y
    obtain ⟨word, more, c', ys, codes, whole⟩ := encodeRest_codes width nonempty going
    obtain ⟨done, rfl, near⟩ := codes.near
    have fewer := codes.words
    have count : c'.current.length = c.current.length + done.length := by
      rw [codes.current, List.length_append, near.length_eq]
    rw [List.length_append] at columns
    have read := codes.decodes rows (by rw [List.length_append]; exact columns)
    cases more with
    | nil =>
      obtain ⟨m, rfl⟩ := Nat.exists_eq_succ_of_ne_zero (by omega : n ≠ 0)
      have last : y = (c'.endRow, out ++ word) := whole
      rw [last, List.append_nil]
      refine ⟨congrArg (· + 1) codes.row, rfl, word, ys, rfl, near, fun d sound rest samples => ?_⟩
      rw [read d sound, Decoding.closeRow_full (count.trans columns), codes.current]
    | cons z zs =>
      rw [whole] at going
      obtain ⟨row, current, bits, zs', stream, nearRest, decodes⟩ := ih (codes.row.trans_lt rows) (by omega)
        (List.cons_ne_nil z zs) (by rw [count, Nat.add_assoc]; exact columns) going
      rw [← whole] at row current stream decodes
      refine ⟨row.trans (congrArg (· + 1) codes.row), current, word ++ bits, ys ++ zs', ?_,
        List.rel_append near nearRest, fun d sound rest samples => ?_⟩
      · rw [stream, List.append_assoc]
      · have short : c'.current.length < p.width := by rw [List.length_cons] at columns; omega
        rw [List.append_assoc, read d sound, Decoding.closeRow_open short, decodes d sound, codes.current, List.append_assoc]

/-- A plane-band's rows, coded without a stop, take the decoder to their end, its samples near the rows'. -/
theorem encodeRows_decodes {raw : Nat} {rows : List (List Byte)} (nonzero : 1 ≤ p.width) (width : p.width < 2 ^ 15)
    (wide : ∀ row ∈ rows, row.length = p.width) (few : rows.length ≤ p.lines)
    (going : (encodeRows p.tol raw rows).1.stopped = false) :
    let y := encodeRows p.tol raw rows
    y.1.row = rows.length ∧ y.1.current = [] ∧ ∃ ys, List.Forall₂ (Near p.tol) ys rows.flatten ∧
      ∀ d : Decoding, d.malformed = false → ∀ rest, (d.inStep Coding.initial (y.2 ++ rest) []).settled p =
        (d.inStep y.1 rest ys).settled p := by
  induction rows using List.reverseRecOn with
  | nil => exact ⟨rfl, rfl, [], .nil, fun _ _ _ => rfl⟩
  | append_singleton rows row ih =>
    intro y
    have whole : y = encodeRows p.tol raw (rows ++ [row]) := rfl
    have length : row.length = p.width := wide row (by simp)
    rw [encodeRows_append] at going whole
    have before := going_of_encodeLine going
    rw [encodeLine_going before] at going whole
    rw [List.length_append, List.length_singleton] at few
    obtain ⟨sameRow, current, ys, near, decodes⟩ :=
      ih (fun r hr => wide r (List.mem_append_left _ hr)) (by omega) before
    have words : (encodeRows p.tol raw rows).1.wordsLeft row ≤ 2 * row.length := Nat.sub_le ..
    obtain ⟨nextRow, nextCurrent, bits, zs, stream, nearRow, decodesRow⟩ := encodeRest_decodes width
      (sameRow.trans_lt few) (by omega) (List.ne_nil_of_length_pos (by omega)) (by rw [current, length]; exact Nat.zero_add _)
      going
    rw [← whole] at nextRow nextCurrent stream decodesRow
    refine ⟨?_, nextCurrent, ys ++ zs, ?_, fun d sound rest => ?_⟩
    · rw [nextRow, sameRow, List.length_append, List.length_singleton]
    · rw [List.flatten_concat]
      exact List.rel_append near nearRow
    · rw [stream, List.append_assoc, decodes d sound, decodesRow d sound, current, List.nil_append]

/-! ## The stored bytes fed unit by unit (R93) -/

/-- Units handed over one after another, and not yet decoded. -/
def Decoding.receiveAll (units : List (List Byte)) (d : Decoding) : Decoding :=
  units.foldl (fun d unit => d.receive unit) d

theorem Decoding.receiveAll_concat (units : List (List Byte)) (unit : List Byte) (d : Decoding) :
    d.receiveAll (units ++ [unit]) = (d.receiveAll units).receive unit := by
  simp [Decoding.receiveAll]

theorem Decoding.receiveAll_append (first others : List (List Byte)) (d : Decoding) :
    d.receiveAll (first ++ others) = (d.receiveAll first).receiveAll others := List.foldl_append

theorem Decoding.receiveAll_eq (units : List (List Byte)) (d : Decoding) :
    d.receiveAll units =
      { d with unitsRead := d.unitsRead + units.length
               unread := d.unread ++ units.flatten.flatMap byteBits
               coding := { d.coding with check := units.flatten.foldl crc16Byte d.coding.check } } := by
  induction units using List.reverseRecOn with
  | nil => simp [Decoding.receiveAll]
  | append_singleton units unit ih =>
    rw [Decoding.receiveAll_concat, ih]
    simp [Decoding.receive, Nat.add_assoc]

section

variable (units : List (List Byte)) (d : Decoding)

@[simp] theorem Decoding.receiveAll_entry : (d.receiveAll units).entry = d.entry := by rw [Decoding.receiveAll_eq]
@[simp] theorem Decoding.receiveAll_unitsRead : (d.receiveAll units).unitsRead = d.unitsRead + units.length := by
  rw [Decoding.receiveAll_eq]
@[simp] theorem Decoding.receiveAll_malformed : (d.receiveAll units).malformed = d.malformed := by
  rw [Decoding.receiveAll_eq]
@[simp] theorem Decoding.receiveAll_row : (d.receiveAll units).coding.row = d.coding.row := by rw [Decoding.receiveAll_eq]
@[simp] theorem Decoding.receiveAll_bitCount : (d.receiveAll units).coding.bitCount = d.coding.bitCount := by
  rw [Decoding.receiveAll_eq]
@[simp] theorem Decoding.receiveAll_check :
    (d.receiveAll units).coding.check = units.flatten.foldl crc16Byte d.coding.check := by rw [Decoding.receiveAll_eq]

end

theorem Decoding.settled_receiveAll (units : List (List Byte)) (d : Decoding) :
    ((d.settled p).receiveAll units).settled p = (d.receiveAll units).settled p := by
  induction units using List.reverseRecOn with
  | nil => exact Decoding.settled_of_halts d.settled_halts
  | append_singleton units unit ih =>
    rw [Decoding.receiveAll_concat, Decoding.receiveAll_concat, ← Decoding.settled_receive, ih, Decoding.settled_receive]

/-- Units fed one by one are decoded as if all their bits had been there at once, where no word is left wanting
at the last. -/
theorem foldl_feed_coded {e : IndexEntry} (coded : e.mode = .coded) {d : Decoding} (halts : d.Halts p)
    (units : List (List Byte)) (few : d.unitsRead + units.length ≤ unitCount e.offset e.length)
    (last : d.unitsRead + units.length = unitCount e.offset e.length →
      p.lines ≤ ((d.receiveAll units).settled p).coding.row) :
    units.foldl (fun d unit => d.feed p e unit) d = (d.receiveAll units).settled p := by
  induction units using List.reverseRecOn with
  | nil => exact (Decoding.settled_of_halts halts).symm
  | append_singleton units unit ih =>
    rw [List.length_append, List.length_singleton] at few last
    rw [Decoding.receiveAll_concat] at last ⊢
    have count : ((d.receiveAll units).settled p).unitsRead = d.unitsRead + units.length := by
      rw [Decoding.settled_unitsRead, Decoding.receiveAll_unitsRead]
    rw [List.foldl_append, List.foldl_cons, List.foldl_nil, ih (by omega) (fun all => by omega), Decoding.feed_coded coded,
      Decoding.settled_receive, count, if_neg]
    rintro ⟨all, rows⟩
    exact absurd rows (Nat.not_lt.mpr (last (by omega)))

theorem foldl_feed_raw {e : IndexEntry} (raw : e.mode = .raw) (d : Decoding) (units : List (List Byte)) :
    units.foldl (fun d unit => d.feed p e unit) d =
      { d with unitsRead := d.unitsRead + units.length
               samples := d.samples ++ units.flatten
               coding := { d.coding with check := units.flatten.foldl crc16Byte d.coding.check } } := by
  induction units using List.reverseRecOn with
  | nil => simp
  | append_singleton units unit ih =>
    rw [List.foldl_append, List.foldl_cons, List.foldl_nil, ih, Decoding.feed_raw raw]
    simp [Nat.add_assoc]

/-! ## A plane-band whole -/

theorem decodeStored_raw {e : IndexEntry} (raw : e.mode = .raw) (units : List (List Byte)) :
    decodeStored p e units =
      if unitCount e.offset e.length ≤ units.length then
        some (if crc16 units.flatten = e.check then .verified units.flatten else .damage)
      else none := by
  unfold decodeStored
  rw [foldl_feed_raw raw, Decoding.verdict_raw rfl raw]
  simp only [Decoding.initial, Nat.zero_add]
  rfl

theorem Coding.read_nil (c : Coding) : c.read [] = none := by
  unfold Coding.read
  split <;> rfl

/-- The decoder with a plane-band's index entry and none of its units. -/
def Decoding.begin (e : IndexEntry) : Decoding := { Decoding.initial with entry := some e }

theorem Decoding.begin_halts (e : IndexEntry) : (Decoding.begin e).Halts p := .inr (.inr (Coding.read_nil _))

theorem Decoding.begin_receiveAll (e : IndexEntry) (units : List (List Byte)) :
    (Decoding.begin e).receiveAll units =
      ((Decoding.begin e).receiveAll units).inStep Coding.initial (units.flatten.flatMap byteBits) [] := by
  rw [Decoding.receiveAll_eq]
  rfl

/-- Before its last unit a plane-band has no outcome, where with all of them no finding is made and no byte is left
over. -/
theorem Decoding.verdict_waits {e : IndexEntry} (coded : e.mode = .coded) {d : Decoding} (entry : d.entry = some e)
    (waits : d.unitsRead < unitCount e.offset e.length) {others : List (List Byte)}
    (sound : ((d.receiveAll others).settled p).malformed = false)
    (size : e.length ≤ (((d.receiveAll others).settled p).coding.bitCount + 7) / 8) : d.verdict p = none := by
  cases malformed : d.malformed with
  | true =>
    have halts : (d.receiveAll others).Halts p := .inl ((d.receiveAll_malformed others).trans malformed)
    rw [Decoding.settled_of_halts halts, Decoding.receiveAll_malformed, malformed] at sound
    cases sound
  | false =>
    by_cases rows : p.lines ≤ d.coding.row
    · have halts : (d.receiveAll others).Halts p := .inr (.inl (rows.trans_eq (d.receiveAll_row others).symm))
      rw [Decoding.settled_of_halts halts, Decoding.receiveAll_bitCount] at size
      rw [Decoding.verdict_rebuilt entry coded malformed rows, if_neg (by omega), if_neg (by omega)]
    · exact Decoding.verdict_unfinished entry coded malformed rows

/-- Where the stored bits take a decoder to the plane-band's end, all its units verify it, and fewer have no outcome. -/
theorem decodeStored_coded {e : IndexEntry} {units : List (List Byte)} {c : Coding} {pad : List Bool} {ys : List Byte}
    (coded : e.mode = .coded) (count : units.length = unitCount e.offset e.length) (rows : c.row = p.lines)
    (size : e.length ≤ (c.bitCount + 7) / 8) (check : crc16 units.flatten = e.check)
    (decodes : ∀ d : Decoding, d.malformed = false →
      (d.inStep Coding.initial (units.flatten.flatMap byteBits) []).settled p = (d.inStep c pad ys).settled p) :
    (∀ n < units.length, decodeStored p e (units.take n) = none) ∧ decodeStored p e units = some (.verified ys) := by
  have fresh : (Decoding.begin e).unitsRead = 0 := rfl
  have sound : ((Decoding.begin e).receiveAll units).malformed = false := Decoding.receiveAll_malformed ..
  have done : ((Decoding.begin e).receiveAll units).settled p = ((Decoding.begin e).receiveAll units).inStep c pad ys := by
    rw [Decoding.begin_receiveAll, decodes _ sound]
    exact Decoding.settled_of_halts (.inr (.inl rows.ge))
  have fed (us : List (List Byte)) (few : us.length ≤ unitCount e.offset e.length)
      (last : us.length = unitCount e.offset e.length → us = units) :
      decodeStored p e us = (((Decoding.begin e).receiveAll us).settled p).verdict p := by
    refine congrArg (Decoding.verdict p) (foldl_feed_coded coded (Decoding.begin_halts e) us (by omega) fun all => ?_)
    rw [last (by omega), done]
    exact rows.ge
  refine ⟨fun n fewer => ?_, ?_⟩
  · have length : (units.take n).length = n := List.length_take_of_le (Nat.le_of_lt fewer)
    have finish : ((((Decoding.begin e).receiveAll (units.take n)).settled p).receiveAll (units.drop n)).settled p =
        ((Decoding.begin e).receiveAll units).inStep c pad ys := by
      rw [Decoding.settled_receiveAll, ← Decoding.receiveAll_append, List.take_append_drop, done]
    rw [fed _ (by omega) (fun all => by omega)]
    refine Decoding.verdict_waits coded ((decodeOn_entry ..).trans (Decoding.receiveAll_entry ..)) ?_
      ((congrArg Decoding.malformed finish).trans sound)
      (size.trans_eq (congrArg (fun d => (d.coding.bitCount + 7) / 8) finish).symm)
    rw [Decoding.settled_unitsRead, Decoding.receiveAll_unitsRead, length]
    omega
  · rw [fed units count.le fun _ => rfl, done]
    refine (Decoding.verdict_verified_iff (Decoding.receiveAll_entry ..) ys).mpr
      ⟨rfl, (Decoding.receiveAll_check ..).trans check, ?_, fun _ => ⟨sound, rows.ge, size⟩⟩
    show _ ≤ ((Decoding.begin e).receiveAll units).unitsRead
    rw [Decoding.receiveAll_unitsRead]
    omega

theorem length_flatten_of_wide {width : Nat} {rows : List (List Byte)} (wide : ∀ row ∈ rows, row.length = width) :
    rows.flatten.length = width * rows.length := by
  rw [List.length_flatten, List.map_congr_left wide, List.map_const', List.sum_replicate, smul_eq_mul, Nat.mul_comm]

theorem Near.samples {tol : Nat} {ys zs : List Byte} (near : List.Forall₂ (Near tol) ys zs) {i : Nat} {y : Byte}
    (at_i : ys[i]? = some y) : ∃ z : Byte, zs[i]? = some z ∧ |(y.toNat : Int) - z.toNat| ≤ tol := by
  induction near generalizing i with
  | nil => cases at_i
  | cons close _ ih =>
    cases i with
    | zero => cases at_i; exact ⟨_, rfl, close⟩
    | succ i => exact ih at_i

end Sys2Proof.Machine

section

open Sys2Proof Sys2Proof.Machine

/-- Settles O53: the decoder goes through the encoder's states, however the stored bytes are cut. -/
theorem decodeRebuildsWithinTolerance : Obligations.DecodeRebuildsWithinTolerance := by
  intro tol width offset rows units _ nonzero narrow _ wide raw p x samples stored count
  refine ⟨fun going coded => ?_, fun plain => ?_⟩
  · intro e
    obtain ⟨row, -, ys, near, decodes⟩ := encodeRows_decodes (p := p) nonzero (by show width < _; omega) wide (Nat.le_refl _) going
    have bits : stored.flatMap byteBits = x.2 ++ List.replicate (8 * ((x.2.length + 7) / 8) - x.2.length) false := by
      rw [coded, flatMap_codedBytes]
    have length : e.length ≤ (x.1.bitCount + 7) / 8 := by
      rw [(encodeRows_sized tol raw rows).1, ← length_codedBytes, ← coded]
    obtain ⟨waits, verified⟩ := decodeStored_coded (e := e) rfl count row length rfl
      (fun d sound => (congrArg (fun b => (d.inStep Coding.initial b []).settled p) bits).trans (decodes d sound _))
    exact ⟨waits, ys, verified, near.length_eq, fun i y => Near.samples near⟩
  · intro e
    have length : stored.length = raw := (congrArg List.length plain).trans (length_flatten_of_wide wide)
    have all : units.length = unitCount e.offset e.length := by rw [count, length]; rfl
    refine ⟨fun n fewer => ?_, ?_⟩
    · have taken : (units.take n).length = n := List.length_take_of_le (Nat.le_of_lt fewer)
      rw [decodeStored_raw rfl, if_neg (by omega)]
    · rw [decodeStored_raw rfl, if_pos all.ge, if_pos rfl]
      exact congrArg (some ∘ Verdict.verified) plain

end

/-! # Stray line blocks, and the end of a line coding (R75 to R79, R87, R121, R141) -/

namespace Sys2Proof.Machine

variable {s : State} {w : EncoderWork}

theorem exec_lineBlock {p : Port} (up : (s.port p).state ≠ .down) (b : LineBlock) :
    exec (.lineBlock p b) s = .next (s.lineBlock p b) := by
  show Host.Outcome.next _ = _
  rw [if_neg up]

/-- A block outside an open composition is stray (R75, R121, R141). -/
theorem State.lineBlock_stray {p : Port} (closed : p ≠ .compose ∨ s.compose.state ≠ .inbound) (b : LineBlock) :
    s.lineBlock p b = s.strayBlock p := by
  rw [State.lineBlock, if_neg (fun ⟨compose, inbound⟩ => closed.elim (· compose) (· inbound))]

/-- A block that comes while a token is owed is stray (R76). -/
theorem State.composeBlock_busy (busy : w.phase.isCommitting = true ∨ w.phase = .lineCoding) (b : LineBlock) :
    s.composeBlock w b = s.markStray .compose := by
  rw [State.composeBlock]
  cases phase : w.phase with
  | lineCoding => rfl
  | committing => rfl
  | ready => simp [phase, EncoderPhase.isCommitting] at busy
  | complete => simp [phase, EncoderPhase.isCommitting] at busy

theorem State.strayBlock_eq {p : Port} (up : (s.port p).state ≠ .down) :
    s.strayBlock p = (s.sent p (.token .rejectOrder)).strayed p := by
  rw [State.strayBlock, State.send_eq_sent up]
  rfl

/-- The coding of a line ends with its token, and the deferred reply behind it (R78, R87). -/
theorem State.lineCoded_eq (up : s.compose.state ≠ .down) : s.lineCoded w =
    (s.tokenSent { w.codeLast (s.page w.handle).shape with phase := .ready } .accept).judgeDeferred := by
  rw [← State.send_token up]
  rfl

theorem exec_lineCodingEnd (working : s.encoder = some w) (coding : w.phase = .lineCoding) :
    exec .lineCodingEnd s = .next (s.lineCoded w) := by
  show execLineCodingEnd s = _
  simp only [execLineCodingEnd, working, coding]

end Sys2Proof.Machine

section

open Sys2Proof Sys2Proof.Machine

/-- Settles O18: outside an open composition the block is answered, at a busy Compose port it is only marked. -/
theorem strayLineBlocks : Obligations.StrayLineBlocks := by
  refine fun p b s => ⟨fun up closed => ?_, fun inbound busy => ?_⟩
  · rw [exec_lineBlock up, State.lineBlock_stray closed, State.strayBlock_eq up]
  · obtain ⟨w, working, busy⟩ := (Option.any_eq_true _ _).mp busy
    have marked : s.composeBlock w b = s.markStray .compose := State.composeBlock_busy (by simpa using busy) b
    rw [exec_lineBlock (p := .compose) (by simp [inbound]), State.lineBlock, if_pos ⟨rfl, inbound⟩, working]
    exact congrArg _ marked

/-- Settles O20: the line is coded, ACCEPT is sent, and then the deferred reply is judged. -/
theorem lineCodingEndAccepts : Obligations.LineCodingEndAccepts := by
  intro w s inbound working coding p band coded
  have up : s.compose.state ≠ .down := by simp [inbound]
  rw [exec_lineCodingEnd working coding, State.lineCoded_eq up]
  refine ⟨fun nothing => ?_, fun abandon => ?_⟩
  · exact congrArg _ (State.judgeDeferred_none (by exact nothing) (congrArg (fun d => { w with
      phase := .ready, coding := some coded.1, output := coded.2, deferred := d }) nothing.symm) .accept)
  · exact congrArg _ (State.judgeDeferred_abandoned (by exact abandon) .accept)

end

/-! # The agreement of the blocks, port by port and for the store

`State.BlocksAgree` reads of each port its state and which records of its work are there, its face, and of the
store the mode, the retained set and the scheduler. Most operations leave all of that as it was (`State.Steady`);
the others begin or end the work of one port, or move the store mode. -/

namespace Sys2Proof.Machine

variable {s t u : State} {p : Port}

/-! ## What a port shows of its work -/

/-- A port's state, and which of the records that its work needs are there. -/
def State.face (s : State) : Port → PortState × List Bool
  | .compose => (s.compose.state, [s.encoder.isSome])
  | .press => (s.press.state, [s.delivery.isSome, s.pressChannel.isSome, s.delivering])
  | .proof => (s.proof.state, [s.view.isSome, s.proofChannel.isSome])

/-- The state of a port at work (R184). -/
def busyState : Port → PortState
  | .compose => .inbound
  | .press | .proof => .outbound

/-- No port works in this state. -/
abbrev PortState.Workless (x : PortState) : Prop := x ≠ .inbound ∧ x ≠ .outbound

theorem workless_idle : PortState.idle.Workless := by decide
theorem workless_down : PortState.down.Workless := by decide
theorem workless_resting : PortState.resting.Workless := by decide

/-- A port is in its state of work with every record of its work there, or in no state of work with none there
(R71, R97, R103, R109, R115, R138, R184). -/
def FaceAgrees (p : Port) (f : PortState × List Bool) : Prop :=
  f.1 = busyState p ∧ (∀ b ∈ f.2, b = true) ∨ f.1.Workless ∧ ∀ b ∈ f.2, b = false

/-- A face that lets the store rest (R190). -/
def Rests (f : PortState × List Bool) : Prop := f.1 = .resting ∨ f.1 = .down

theorem State.face_state (s : State) (p : Port) : (s.face p).1 = (s.port p).state := by cases p <;> rfl

theorem State.quiet_iff (s : State) (p : Port) : (s.port p).quiet = true ↔ Rests (s.face p) := by
  rw [PortRec.quiet_iff, Rests, State.face_state]

theorem State.face_setPort (s : State) (p : Port) (r : PortRec) : (s.setPort p r).face p = (r.state, (s.face p).2) := by
  cases p <;> rfl

theorem State.face_setPort_ne (s : State) {q : Port} (other : q ≠ p) (r : PortRec) :
    (s.setPort p r).face q = s.face q := by
  cases p <;> cases q <;> first | rfl | exact absurd rfl other

theorem busyState_works (p : Port) : ¬ (busyState p).Workless := by cases p <;> simp [busyState]

theorem FaceAgrees.none {f : PortState × List Bool} (h : FaceAgrees p f) (still : f.1.Workless) : ∀ b ∈ f.2, b = false := by
  rcases h with ⟨busy, -⟩ | ⟨-, none⟩
  · exact absurd (busy ▸ still) (busyState_works p)
  · exact none

theorem FaceAgrees.all {f : PortState × List Bool} (h : FaceAgrees p f) (busy : f.1 = busyState p) : ∀ b ∈ f.2, b = true := by
  rcases h with ⟨-, all⟩ | ⟨still, -⟩
  · exact all
  · exact absurd (busy ▸ still) (busyState_works p)

/-- A record of a port's work is there in the state of work alone. -/
theorem FaceAgrees.busy {f : PortState × List Bool} (h : FaceAgrees p f) (some : true ∈ f.2) : f.1 = busyState p := by
  rcases h with ⟨busy, -⟩ | ⟨-, none⟩
  · exact busy
  · exact nomatch none true some

theorem State.composeFace_iff (s : State) :
    FaceAgrees .compose (s.face .compose) ↔ s.compose.state ≠ .outbound ∧ s.ComposeAgrees := by
  simp only [FaceAgrees, PortState.Workless, State.face, busyState, State.ComposeAgrees, List.forall_mem_singleton]
  cases s.compose.state <;> cases s.encoder.isSome <;> simp

theorem State.pressFace_iff (s : State) :
    FaceAgrees .press (s.face .press) ↔ s.press.state ≠ .inbound ∧ s.PressAgrees := by
  simp only [FaceAgrees, PortState.Workless, State.face, busyState, State.PressAgrees, List.forall_mem_cons, List.not_mem_nil]
  cases s.press.state <;> cases s.delivery.isSome <;> simp

theorem State.proofFace_iff (s : State) :
    FaceAgrees .proof (s.face .proof) ↔ s.proof.state ≠ .inbound ∧ s.ProofAgrees := by
  simp only [FaceAgrees, PortState.Workless, State.face, busyState, State.ProofAgrees, List.forall_mem_cons, List.not_mem_nil]
  cases s.proof.state <;> cases s.view.isSome <;> simp

/-! ## The store -/

/-- The scheduler and the retained set are those of the store mode (R161, R162, R191). -/
structure State.StoreAgrees (s : State) : Prop where
  drain : s.sched.drain = true ↔ s.mode = .enteringRest
  selfRetention : s.sched.selfRetention = true ↔ s.mode = .retained
  timerStopped : s.sched.timerRunning = false ↔ s.mode = .retained
  retained : s.retained.isSome ↔ s.mode = .retained
  frozen : s.mode = .retained → s.sched.grant = none ∧ s.sched.debt ≤ 0

/-- The agreement of the blocks, read off the faces of the ports and off the store. -/
structure State.Agrees (s : State) : Prop where
  ports : ∀ p, FaceAgrees p (s.face p)
  rests : s.mode ≠ .active → ∀ p, Rests (s.face p)
  store : s.StoreAgrees

theorem State.blocksAgree_iff : s.BlocksAgree ↔ s.Agrees := by
  simp only [State.BlocksAgree, State.RolesKept, State.RestAgrees, State.quiet_iff]
  constructor
  · rintro ⟨⟨composeRole, pressRole, proofRole⟩, compose, press, proof, rests, drain, self, timer, retained, frozen⟩
    refine ⟨fun p => ?_, rests, ⟨drain, self, timer, retained, frozen⟩⟩
    cases p with
    | compose => exact s.composeFace_iff.mpr ⟨composeRole, compose⟩
    | press => exact s.pressFace_iff.mpr ⟨pressRole, press⟩
    | proof => exact s.proofFace_iff.mpr ⟨proofRole, proof⟩
  · rintro ⟨ports, rests, store⟩
    obtain ⟨composeRole, compose⟩ := s.composeFace_iff.mp (ports .compose)
    obtain ⟨pressRole, press⟩ := s.pressFace_iff.mp (ports .press)
    obtain ⟨proofRole, proof⟩ := s.proofFace_iff.mp (ports .proof)
    exact ⟨⟨composeRole, pressRole, proofRole⟩, compose, press, proof, rests, store.drain, store.selfRetention,
      store.timerStopped, store.retained, store.frozen⟩

/-! ## What leaves the agreement alone -/

/-- The scheduler keeps its drain, its timer and its self-retention, in which nothing is granted (R161, R162). -/
structure Scheduler.Steady (c c' : Scheduler) : Prop where
  drain : c'.drain = c.drain
  selfRetention : c'.selfRetention = c.selfRetention
  timerRunning : c'.timerRunning = c.timerRunning
  frozen : c.selfRetention = true → c.timerRunning = false → c.grant = none → c'.grant = none ∧ c'.debt = c.debt

theorem Scheduler.Steady.refl (c : Scheduler) : c.Steady c := ⟨rfl, rfl, rfl, fun _ _ none => ⟨none, rfl⟩⟩

theorem Scheduler.Steady.trans {c c' c'' : Scheduler} (h : c.Steady c') (h' : c'.Steady c'') : c.Steady c'' where
  drain := h'.drain.trans h.drain
  selfRetention := h'.selfRetention.trans h.selfRetention
  timerRunning := h'.timerRunning.trans h.timerRunning
  frozen self timer none := by
    obtain ⟨none', debt⟩ := h.frozen self timer none
    obtain ⟨none'', debt'⟩ := h'.frozen (h.selfRetention.trans self) (h.timerRunning.trans timer) none'
    exact ⟨none'', debt'.trans debt⟩

/-- Where no more than the grant and the requests change, a free store stays free. -/
theorem Scheduler.Steady.of_grant {c c' : Scheduler} (drain : c'.drain = c.drain)
    (selfRetention : c'.selfRetention = c.selfRetention) (timerRunning : c'.timerRunning = c.timerRunning)
    (debt : c'.debt = c.debt) (grant : c.grant = none → c'.grant = none) : c.Steady c' :=
  ⟨drain, selfRetention, timerRunning, fun _ _ none => ⟨grant none, debt⟩⟩

theorem Scheduler.steady_grantNext (c : Scheduler) (x : Thermal) : c.Steady (c.grantNext x) := by
  have fields : (c.grantNext x).drain = c.drain ∧ (c.grantNext x).selfRetention = c.selfRetention ∧
      (c.grantNext x).timerRunning = c.timerRunning := by
    rcases c.grantNext_cases x with ⟨e, -⟩ | ⟨-, -, k, -, -, -, e⟩ <;> rw [e]
    · exact ⟨rfl, rfl, rfl⟩
    · cases k <;> exact ⟨rfl, rfl, rfl⟩
  exact ⟨fields.1, fields.2.1, fields.2.2, fun self _ none => by
    rw [Scheduler.grantNext_retained self]; exact ⟨none, rfl⟩⟩

theorem Scheduler.steady_withdrawWrite (c : Scheduler) : c.Steady c.withdrawWrite :=
  .of_grant rfl rfl rfl rfl (fun none => by simp [Scheduler.withdrawWrite, none])

theorem Scheduler.steady_withdrawRead (c : Scheduler) (k : DecodeSlot) : c.Steady (c.withdrawRead k) :=
  .of_grant rfl rfl rfl rfl (fun none => by simp [Scheduler.withdrawRead, none])

theorem Scheduler.steady_withoutPress (c : Scheduler) : c.Steady c.withoutPress :=
  (c.steady_withdrawRead _).trans (Scheduler.steady_withdrawRead _ _)

theorem Scheduler.steady_release (c : Scheduler) : c.Steady c.release := .of_grant rfl rfl rfl rfl (fun _ => rfl)

theorem Scheduler.steady_bare (c : Scheduler) : c.Steady c.bare :=
  .of_grant rfl rfl rfl rfl (fun none => by simp [Scheduler.bare, none])

/-- An expiry comes while the timer runs (R162). -/
theorem Scheduler.steady_expire {c : Scheduler} (running : c.timerRunning = true) (x : Thermal) :
    c.Steady (c.expire x) := by
  have frozen {c' : Scheduler} : c.selfRetention = true → c.timerRunning = false → c.grant = none →
      c'.grant = none ∧ c'.debt = c.debt := fun _ stopped => nomatch running.symm.trans stopped
  unfold Scheduler.expire
  split <;> exact ⟨rfl, rfl, rfl, frozen⟩

/-- Every port shows the same face, and the store mode stays with what belongs to it. -/
structure State.Steady (s t : State) : Prop where
  ports : ∀ p, t.face p = s.face p
  mode : t.mode = s.mode
  retained : t.retained = s.retained
  sched : s.sched.Steady t.sched

theorem State.Steady.refl (s : State) : s.Steady s := ⟨fun _ => rfl, rfl, rfl, .refl _⟩

theorem State.Steady.trans (h : s.Steady t) (h' : t.Steady u) : s.Steady u :=
  ⟨fun p => (h'.ports p).trans (h.ports p), h'.mode.trans h.mode, h'.retained.trans h.retained, h.sched.trans h'.sched⟩

/-- What belongs to the store mode agrees after a step of the scheduler that keeps it. -/
theorem State.StoreAgrees.steady (h : s.StoreAgrees) (mode : t.mode = s.mode) (retained : t.retained = s.retained)
    (sched : s.sched.Steady t.sched) : t.StoreAgrees := by
  refine ⟨?_, ?_, ?_, ?_, fun rest => ?_⟩
  · rw [sched.drain, mode]; exact h.drain
  · rw [sched.selfRetention, mode]; exact h.selfRetention
  · rw [sched.timerRunning, mode]; exact h.timerStopped
  · rw [retained, mode]; exact h.retained
  · rw [mode] at rest
    obtain ⟨none, debt⟩ := h.frozen rest
    obtain ⟨none', same⟩ := sched.frozen (h.selfRetention.mpr rest) (h.timerStopped.mpr rest) none
    exact ⟨none', same ▸ debt⟩

theorem State.Agrees.steady (h : s.Agrees) (same : s.Steady t) : t.Agrees where
  ports p := same.ports p ▸ h.ports p
  rests away p := same.ports p ▸ h.rests (same.mode ▸ away) p
  store := h.store.steady same.mode same.retained same.sched

theorem forall_ne_compose {P : Port → Prop} (press : P .press) (proof : P .proof) : ∀ q, q ≠ .compose → P q
  | .compose, other => absurd rfl other
  | .press, _ => press
  | .proof, _ => proof

theorem forall_ne_press {P : Port → Prop} (compose : P .compose) (proof : P .proof) : ∀ q, q ≠ .press → P q
  | .compose, _ => compose
  | .press, other => absurd rfl other
  | .proof, _ => proof

theorem forall_ne_proof {P : Port → Prop} (compose : P .compose) (press : P .press) : ∀ q, q ≠ .proof → P q
  | .compose, _ => compose
  | .press, _ => press
  | .proof, other => absurd rfl other

/-- One port begins or ends its work, or turns; the others and the store go on as they were. -/
theorem State.Agrees.turn (h : s.Agrees) (p : Port) (agrees : FaceAgrees p (t.face p))
    (rests : s.mode = .active ∨ Rests (t.face p)) (others : ∀ q, q ≠ p → t.face q = s.face q)
    (mode : t.mode = s.mode) (retained : t.retained = s.retained) (sched : s.sched.Steady t.sched) : t.Agrees where
  ports q := by
    by_cases e : q = p
    · exact e ▸ agrees
    · exact others q e ▸ h.ports q
  rests away q := by
    by_cases e : q = p
    · exact e ▸ rests.resolve_left (mode ▸ away)
    · exact others q e ▸ h.rests (mode ▸ away) q
  store := h.store.steady mode retained sched

/-- The store is ACTIVE while a port is neither RESTING nor DOWN (R190). -/
theorem State.Agrees.active (h : s.Agrees) {st : PortState} (here : (s.port p).state = st)
    (up : st ≠ .resting ∧ st ≠ .down) : s.mode = .active := by
  by_contra away
  have rests := h.rests away p
  rw [Rests, State.face_state, here] at rests
  exact rests.elim up.1 up.2

/-! ## What agreement says of one port -/

theorem State.Agrees.encoder_isSome (h : s.Agrees) (inbound : s.compose.state = .inbound) : s.encoder.isSome = true :=
  (h.ports .compose).all inbound _ (by simp [State.face])

theorem State.Agrees.inbound (h : s.Agrees) {w : EncoderWork} (working : s.encoder = some w) :
    s.compose.state = .inbound := (h.ports .compose).busy (by simp [State.face, working])

theorem State.Agrees.press_outbound (h : s.Agrees) {d : Delivery} (running : s.delivery = some d) :
    s.press.state = .outbound := (h.ports .press).busy (by simp [State.face, running])

theorem State.Agrees.proof_outbound (h : s.Agrees) {x : ViewRecord} (running : s.view = some x) :
    s.proof.state = .outbound := (h.ports .proof).busy (by simp [State.face, running])

/-- A port at work keeps the store ACTIVE (R190). -/
theorem State.Agrees.active_of_busy (h : s.Agrees) (busy : (s.port p).state = busyState p) : s.mode = .active :=
  h.active busy (by cases p <;> decide)

end Sys2Proof.Machine

/-! # The operations of the model, as they keep the blocks in agreement -/

namespace Sys2Proof.Machine

variable {s t u : State} {p : Port}

/-! ## Operations that leave it alone -/

namespace State.Steady

theorem setPort (s : State) (p : Port) {r : PortRec} (same : r.state = (s.port p).state) : s.Steady (s.setPort p r) where
  ports q := by
    by_cases e : q = p
    · rw [e, State.face_setPort, same, ← State.face_state]
    · exact s.face_setPort_ne e r
  mode := s.setPort_mode p r
  retained := s.setPort_retained p r
  sched := by rw [State.setPort_sched]; exact .refl _

theorem send (s : State) (p : Port) (f : Frame) : s.Steady (s.send p f) := setPort s p (PortRec.send_state ..)
theorem reply (s : State) (p : Port) (c : Byte) (x : Result) (l : List Byte) : s.Steady (s.reply p c x l) := send ..
theorem markStray (s : State) (p : Port) : s.Steady (s.markStray p) := setPort s p rfl
theorem strayBlock (s : State) (p : Port) : s.Steady (s.strayBlock p) := (send s p _).trans (markStray _ p)
theorem taken (s : State) (p : Port) (c : Cmd) : s.Steady (s.taken p c) := setPort s p rfl

theorem updateSched {f : Scheduler → Scheduler} (steady : s.sched.Steady (f s.sched)) : s.Steady (s.updateSched f) :=
  ⟨fun _ => rfl, rfl, rfl, steady⟩

theorem grantNext (s : State) : s.Steady s.grantNext := updateSched (s.sched.steady_grantNext _)

/-- A request that arrives, and the grant that it may lead to. -/
theorem presents {f : Scheduler → Scheduler} (asks : s.sched.Steady (f s.sched)) :
    s.Steady (s.updateSched f).grantNext := (updateSched asks).trans (grantNext _)

theorem presentWrite (s : State) : s.Steady s.presentWrite := by
  rcases s.presentWrite_cases with e | ⟨w, x, q, -, -, -, -, -, e⟩ <;> rw [e]
  · exact refl s
  · exact presents (.of_grant rfl rfl rfl rfl id)

theorem presentPress (s : State) : s.Steady s.presentPress := by
  rcases s.presentPress_cases with e | ⟨c, q, -, -, -, -, e⟩ <;> rw [e]
  · exact refl s
  · exact presents (.of_grant rfl rfl rfl rfl id)

theorem presentProof (s : State) : s.Steady s.presentProof := by
  rcases s.presentProof_cases with e | ⟨c, work, q, -, -, -, -, -, e⟩ <;> rw [e]
  · exact refl s
  · exact presents (.of_grant rfl rfl rfl rfl id)

/-! ### A record of the work in hand gives way to another -/

theorem encoder {w : EncoderWork} (working : s.encoder = some w) (w' : EncoderWork) :
    s.Steady { s with encoder := some w' } :=
  ⟨fun p => by cases p <;> simp [State.face, working], rfl, rfl, .refl _⟩

theorem delivery {d : Delivery} (running : s.delivery = some d) (d' : Delivery) :
    s.Steady { s with delivery := some d' } :=
  ⟨fun p => by cases p <;> simp [State.face, running], rfl, rfl, .refl _⟩

theorem pressChannel {c : PressChannel} (active : s.pressChannel = some c) (c' : PressChannel) :
    s.Steady { s with pressChannel := some c' } :=
  ⟨fun p => by cases p <;> simp [State.face, active], rfl, rfl, .refl _⟩

theorem view {x : ViewRecord} (running : s.view = some x) (x' : ViewRecord) :
    s.Steady { s with view := some x' } :=
  ⟨fun p => by cases p <;> simp [State.face, running], rfl, rfl, .refl _⟩

theorem proofChannel {c : ProofChannel} (active : s.proofChannel = some c) (c' : ProofChannel) :
    s.Steady { s with proofChannel := some c' } :=
  ⟨fun p => by cases p <;> simp [State.face, active], rfl, rfl, .refl _⟩

theorem mapPressChannel (s : State) (f : PressChannel → PressChannel) :
    s.Steady { s with pressChannel := s.pressChannel.map f } :=
  ⟨fun p => by cases p <;> simp [State.face], rfl, rfl, .refl _⟩

theorem mapProofChannel (s : State) (f : ProofChannel → ProofChannel) :
    s.Steady { s with proofChannel := s.proofChannel.map f } :=
  ⟨fun p => by cases p <;> simp [State.face], rfl, rfl, .refl _⟩

/-! ### Blocks sent -/

theorem promote (s : State) : s.Steady s.promote := by
  unfold State.promote
  split
  · next d c hd hc => exact pressChannel hc _
  · exact refl s

theorem sendPress (s : State) : s.Steady s.sendPress := by
  unfold State.sendPress
  split
  · exact refl s
  · next d running =>
    split
    · exact refl s
    · split
      · exact refl s
      · split
        · exact refl s
        · next f _ => exact (send s .press f).trans (delivery (by simpa using running) _)

theorem sendView (s : State) : s.Steady s.sendView := by
  unfold State.sendView
  split
  · exact refl s
  · next x running =>
    split
    · exact refl s
    · split
      · exact refl s
      · split
        · exact refl s
        · next f _ => exact (send s .proof f).trans (view (by simpa using running) _)

theorem store (s : State) (m : Memory) : s.Steady { s with store := m } := ⟨fun _ => rfl, rfl, rfl, .refl _⟩

theorem freed (s : State) (change : StoreChange) : s.Steady (s.freed change) :=
  (store s _).trans (updateSched (Scheduler.steady_release _))

/-! ### The directory and the queue -/

theorem directory (s : State) (pages : Vector PageRecord 256) (freeRecords : Nat) (freeSet : List Span)
    (queue : List Handle) :
    s.Steady { s with pages := pages, freeRecords := freeRecords, freeSet := freeSet, queue := queue } :=
  ⟨fun _ => rfl, rfl, rfl, .refl _⟩

theorem dropRefs (s : State) (k : Handle) (n : Nat) : s.Steady (s.dropRefs k n) := by
  rw [State.dropRefs_congr (s := s) rfl rfl rfl]
  exact directory s _ _ _ s.queue

theorem removeHead (s : State) : s.Steady s.removeHead := by
  rw [s.removeHead_eq]
  exact directory ..

theorem releaseOne (s : State) (n : ReleaseCounts) (h : Handle) : s.Steady (State.releaseOne (s, n) h).1 := by
  rw [State.releaseOne_eq]
  dsimp only
  split
  · exact directory ..
  · exact directory ..
  · exact refl s

theorem foldl_releaseOne (hs : List Handle) (s : State) (n : ReleaseCounts) :
    s.Steady (hs.foldl State.releaseOne (s, n)).1 := by
  induction hs generalizing s n with
  | nil => exact refl s
  | cons h hs ih => exact (releaseOne s n h).trans (ih _ _)

end State.Steady

/-! ## The store's mode -/

namespace State.Agrees

/-- The drain is complete in ENTERING_REST alone, and rest entry leaves RETAINED (R161, R191). -/
theorem checkDrain (h : s.Agrees) : s.checkDrain.Agrees := by
  rcases s.checkDrain_cases with ⟨drain, debt, grant, e⟩ | ⟨-, e⟩ <;> rw [e]
  · have entering := h.store.drain.mp drain
    have faces : ∀ p, s.completeRest.face p = s.face p := fun p => by cases p <;> simp [State.face]
    exact ⟨fun p => faces p ▸ h.ports p, fun _ p => faces p ▸ h.rests (by simp [entering]) p,
      ⟨iff_of_false nofun nofun, iff_of_true rfl rfl, iff_of_true rfl rfl, iff_of_true rfl rfl, fun _ => ⟨grant, debt⟩⟩⟩
  · exact h

theorem settle (h : s.Agrees) : s.settle.Agrees := (h.steady (.grantNext s)).checkDrain

/-- Rest entry begins where every port is RESTING or DOWN (R190). -/
theorem judgeRest (h : s.Agrees) : s.judgeRest.Agrees := by
  rw [State.judgeRest_eq]
  split
  · next rest =>
    obtain ⟨active, quiet, -⟩ := rest
    have store := h.store
    refine checkDrain ⟨h.ports, fun _ p => ?_, ⟨?_, ?_, ?_, ?_, nofun⟩⟩
    · show Rests (s.face p)
      rw [Rests, State.face_state]
      exact quiet p (by cases p <;> simp)
    · simp
    · simpa [active] using store.selfRetention
    · simpa [active] using store.timerStopped
    · simpa [active] using store.retained
  · exact h

end State.Agrees

theorem State.StoreAgrees.of_active (mode : s.mode = .active) (drain : s.sched.drain = false)
    (self : s.sched.selfRetention = false) (timer : s.sched.timerRunning = true) (retained : s.retained = none) :
    s.StoreAgrees :=
  ⟨by simp [mode, drain], by simp [mode, self], by simp [mode, timer], by simp [mode, retained], by simp [mode]⟩

theorem State.StoreAgrees.wakeStore (h : s.StoreAgrees) : s.wakeStore.StoreAgrees := by
  have granted {x : State} (h : x.StoreAgrees) : x.grantNext.StoreAgrees :=
    h.steady rfl rfl (x.sched.steady_grantNext _)
  obtain ⟨drain, self, timer, retained, -⟩ := id h
  unfold State.wakeStore
  split
  · exact h
  · next mode =>
    rw [mode] at self timer retained
    exact granted (.of_active rfl rfl (by simpa using self) (by simpa using timer) (by simpa using retained))
  · next mode =>
    rw [mode] at drain
    have undrained : s.sched.drain = false := by simpa using drain
    exact granted (.of_active rfl undrained rfl rfl rfl)

/-- After a wake the store is ACTIVE, so the ports need not rest (R193). -/
theorem State.agrees_wakeStore (ports : ∀ p, FaceAgrees p (s.face p)) (store : s.StoreAgrees) : s.wakeStore.Agrees where
  ports p := by
    have same : s.wakeStore.face p = s.face p := by cases p <;> simp [State.face]
    exact same ▸ ports p
  rests away := absurd (by rw [s.wakeStore_eq]) away
  store := store.wakeStore

/-- A port that turns IDLE out of a state in which it did no work wakes the store (R171, R193). -/
theorem State.Agrees.wakes (h : s.Agrees) (still : (s.port p).state.Workless)
    (turned : (s.setPortState p .idle).Steady t) : t.wakeStore.Agrees := by
  refine State.agrees_wakeStore (fun q => ?_)
    ((h.store.steady (by simp) (by simp) (by rw [State.setPortState_sched]; exact .refl _)).steady
      turned.mode turned.retained turned.sched)
  rw [turned.ports]
  by_cases e : q = p
  · subst e
    have idle := (h.ports q).none (by rwa [State.face_state])
    rw [State.setPortState, State.updatePort, State.face_setPort]
    exact .inr ⟨workless_idle, idle⟩
  · rw [State.setPortState, State.updatePort, State.face_setPort_ne _ e]
    exact h.ports q

namespace State.Agrees

/-! ## Commands judged (R183) -/

theorem judge (h : s.Agrees) {c : Cmd} {body : State → State}
    (rule : s.takes p c → (s.taken p c).Agrees → (body (s.taken p c)).Agrees) : (s.judge p c body).Agrees := by
  rcases s.judge_cases p c body with ⟨-, e⟩ | ⟨-, -, e⟩ | ⟨-, -, -, e⟩ | ⟨takes, e⟩ <;> rw [e]
  · exact h
  · exact h.steady (.setPort s p rfl)
  · exact h.steady (.setPort s p rfl)
  · exact rule takes (h.steady (.taken s p c))

theorem reply (h : s.Agrees) (p : Port) (c : Byte) (x : Result) (l : List Byte) : (s.reply p c x l).Agrees :=
  h.steady (.reply s p c x l)

/-! ## The encoder -/

/-- A page becomes FILLING, and the IDLE port goes INBOUND (R73, R74). -/
theorem opens (h : s.Agrees) (idle : s.compose.state = .idle) (steady : s.Steady t) (w : EncoderWork) :
    (({ t with encoder := some w }).setPortState .compose .inbound).Agrees :=
  (h.steady steady).turn .compose (.inl ⟨rfl, by simp [State.face]⟩)
    (.inl (steady.mode.trans (h.active (p := .compose) idle (by decide)))) (forall_ne_compose rfl rfl) rfl rfl (.refl _)

theorem openAt (h : s.Agrees) (idle : s.compose.state = .idle) (k : Handle) (q : OpenParams) : (s.openAt k q).Agrees :=
  h.opens idle (t := { s.setPage k (openedRecord q) with freeRecords := s.freeRecords - 1 }) (.directory ..) _

theorem continueAt (h : s.Agrees) (idle : s.compose.state = .idle) (k : Handle) : (s.continueAt k).Agrees :=
  h.opens idle (t := s.setPage k { s.page k with state := .filling }) (.directory ..) _

theorem openPage (h : s.Agrees) (idle : s.compose.state = .idle) (p : Port) (q : OpenParams) :
    (s.openPage p q).Agrees := by
  unfold State.openPage
  split
  · exact h.reply ..
  · split
    · exact h.reply ..
    · exact (h.openAt idle _ q).reply ..

theorem continuePage (h : s.Agrees) (idle : s.compose.state = .idle) (p : Port) (k : Handle) :
    (s.continuePage p k).Agrees := by
  unfold State.continuePage
  split
  · exact h.reply ..
  · exact (h.continueAt idle k).reply ..

/-- The encoder's page is sealed or freed, and the port goes IDLE. -/
theorem closes (h : s.Agrees) {w : EncoderWork} (working : s.encoder = some w) (steady : s.Steady t) :
    (({ t with encoder := none }).setPortState .compose .idle).Agrees :=
  (h.steady steady).turn .compose (.inr ⟨workless_idle, by simp [State.face]⟩)
    (.inl (steady.mode.trans (h.active_of_busy (p := .compose) (h.inbound working)))) (forall_ne_compose rfl rfl)
    rfl rfl (.refl _)

theorem sealNow (h : s.Agrees) {w : EncoderWork} (working : s.encoder = some w) (w' : EncoderWork) :
    (s.sealNow w').Agrees := by
  unfold State.sealNow
  split
  · exact (h.closes working (.directory ..)).reply ..
  · exact h.reply ..

theorem abandonNow (h : s.Agrees) {w : EncoderWork} (working : s.encoder = some w) (w' : EncoderWork) :
    (s.abandonNow w').Agrees :=
  (h.closes working (.directory ..)).reply ..

theorem judgeDeferred (h : s.Agrees) : s.judgeDeferred.Agrees := by
  unfold State.judgeDeferred
  split
  · exact h
  · next w working =>
    have undeferred := h.steady (.encoder working { w with deferred := none })
    split
    · exact h
    · exact undeferred.sealNow rfl w
    · exact undeferred.abandonNow rfl w

theorem sealPage (h : s.Agrees) (p : Port) : (s.sealPage p).Agrees := by
  unfold State.sealPage
  split
  · exact h.reply ..
  · next w working =>
    split
    · exact h.steady (.encoder working _)
    · exact h.sealNow working w

theorem abandonPage (h : s.Agrees) (inbound : s.compose.state = .inbound) (p : Port) : (s.abandonPage p).Agrees := by
  unfold State.abandonPage
  split
  · next none => simpa [none] using h.encoder_isSome inbound
  · next w working =>
    split
    · exact h.steady (.encoder working _)
    · exact h.steady (.encoder working _)
    · exact h.abandonNow working w

theorem composeBlock (h : s.Agrees) {w : EncoderWork} (working : s.encoder = some w) (b : LineBlock) :
    (s.composeBlock w b).Agrees := by
  unfold State.composeBlock
  split
  · exact h.steady (.markStray ..)
  · exact h.steady (.markStray ..)
  · dsimp only
    split
    · exact h.steady (.send ..)
    · exact h.steady (.encoder working _)

theorem lineBlock (h : s.Agrees) (p : Port) (b : LineBlock) : (s.lineBlock p b).Agrees := by
  unfold State.lineBlock
  split
  · split
    · next w working => exact h.composeBlock working b
    · exact h.steady (.strayBlock ..)
  · exact h.steady (.strayBlock ..)

/-- The encoder sends its token and judges the deferred reply. -/
theorem tokenJudged (h : s.Agrees) {w : EncoderWork} (working : s.encoder = some w) (w' : EncoderWork) (k : Token) :
    (({ s with encoder := some w' }).send .compose (.token k)).judgeDeferred.Agrees :=
  ((h.steady (.encoder working w')).steady (.send ..)).judgeDeferred

theorem writeDone (h : s.Agrees) : s.writeDone.Agrees := by
  unfold State.writeDone
  split
  · next w working =>
    split
    · dsimp only
      split
      · exact (h.steady (t := s.setPage w.handle _) (.directory ..)).tokenJudged working _ .accept
      · exact h.steady ((State.Steady.encoder working _).trans (.presentWrite _))
    · exact h
  · exact h

theorem takeForCommit (h : s.Agrees) {w : EncoderWork} (working : s.encoder = some w) : (s.takeForCommit w).Agrees := by
  rw [State.takeForCommit]
  split
  · exact h.tokenJudged working _ .rejectFull
  · next es f _ =>
    have taken : s.Steady { s.setPage w.handle { s.page w.handle with extents := (s.page w.handle).extents ++ es } with
        freeSet := f } := .directory ..
    exact (h.steady taken).steady ((State.Steady.encoder (by exact working) _).trans (.presentWrite _))

/-! ## A press delivery -/

theorem endPress (h : s.Agrees) (e : Ending) (resume : Nat) : (s.endPress e resume).Agrees := by
  cases running : s.delivery with
  | none => rwa [State.endPress_none running]
  | some d =>
    have ended := State.endPress_some running e resume
    refine h.turn .press (.inr ?_) (.inl (h.active_of_busy (p := .press) (h.press_outbound running)))
      (forall_ne_press (by simp [State.face]) (by simp [State.face])) (by simp) (by simp) ?_ <;> rw [ended]
    · exact ⟨workless_idle, by simp [State.face]⟩
    · exact s.sched.steady_withoutPress

theorem handOverDamage (h : s.Agrees) : s.handOverDamage.Agrees := by
  unfold State.handOverDamage
  split
  · split
    · split
      · exact h
      · exact h.endPress ..
    · exact h
  · exact h

theorem withdrawIfEmpty (h : s.Agrees) (c : PressChannel) (k : BufferId) :
    (s.withdrawIfEmpty c k).Agrees ∧ (s.withdrawIfEmpty c k).pressChannel = s.pressChannel := by
  unfold State.withdrawIfEmpty
  split
  · exact ⟨h.steady (.updateSched (s.sched.steady_withdrawRead _)), rfl⟩
  · exact ⟨h, rfl⟩

/-- The channel goes on with other buffers, and the reads of those that are EMPTY are withdrawn. -/
theorem dropBuffers (h : s.Agrees) {c : PressChannel} (active : s.pressChannel = some c) (c' : PressChannel) :
    State.Agrees { ((s.withdrawIfEmpty c' .a).withdrawIfEmpty c' .b) with pressChannel := some c' } := by
  obtain ⟨a, channel⟩ := h.withdrawIfEmpty c' .a
  obtain ⟨b, channel'⟩ := a.withdrawIfEmpty c' .b
  exact b.steady (.pressChannel (channel'.trans (channel.trans active)) c')

theorem pressDamage (h : s.Agrees) {c : PressChannel} (active : s.pressChannel = some c) (n : Nat) :
    (s.pressDamage c n).Agrees := by
  unfold State.pressDamage
  exact (dropBuffers (h.steady (t := s.reportDamage c.handle n) (.directory ..)) active _).handOverDamage

theorem pressDecoded (h : s.Agrees) (k : BufferId) : (s.pressDecoded k).Agrees := by
  unfold State.pressDecoded
  split
  · exact h
  · next c active =>
    split
    · split
      · exact h
      · exact h.steady ((State.Steady.pressChannel active _).trans
          ((State.Steady.promote _).trans ((State.Steady.sendPress _).trans (.presentPress _))))
      · exact (h.pressDamage active _).steady (.presentPress _)
    · exact h

theorem pressRead (h : s.Agrees) (k : BufferId) (data : ReadData) : (s.pressRead k data).Agrees := by
  unfold State.pressRead
  split
  · exact h
  · next c active =>
    split
    · split
      · exact h.steady ((State.Steady.pressChannel active _).trans (.presentPress _))
      · exact (h.pressDamage active _).steady (.presentPress _)
    · exact h

theorem completeBand (h : s.Agrees) {d : Delivery} (running : s.delivery = some d) (d' : Delivery) :
    (s.completeBand d').Agrees :=
  (h.steady ((State.Steady.delivery running d'.completeBand).trans (.mapPressChannel _ _))).handOverDamage

theorem acceptPress (h : s.Agrees) {d : Delivery} (running : s.delivery = some d) (b : BlockRef) :
    (s.acceptPress d b).Agrees := by
  unfold State.acceptPress
  dsimp only
  generalize Delivery.endLead { d with outstanding := none } b = d'
  have record := h.steady (.delivery running d')
  split
  · split
    · exact (record.steady (.delivery rfl _)).endPress ..
    · exact record.endPress ..
  · split
    · exact (record.completeBand rfl d').steady ((State.Steady.sendPress _).trans (.presentPress _))
    · exact record.steady ((State.Steady.promote _).trans (.sendPress _))

theorem pressToken (h : s.Agrees) (code : Byte) : (s.pressToken code).Agrees := by
  unfold State.pressToken
  split
  · exact (h.steady (t := { s with pressLate := false }) ⟨fun _ => rfl, rfl, rfl, .refl _⟩).steady (.sendPress _)
  · split
    · exact h.steady (.markStray ..)
    · next d running =>
      split
      · exact h.steady (.markStray ..)
      · split
        · exact h.steady (.markStray ..)
        · exact h.acceptPress running _
        · exact (h.steady (.delivery running _)).endPress ..

theorem beginDelivery (h : s.Agrees) (idle : s.press.state = .idle) (k : Handle) (startBand lead trail window : Nat) :
    (s.beginDelivery k startBand lead trail window).Agrees := by
  unfold State.beginDelivery
  dsimp only
  refine (State.Agrees.reply ?_ ..).steady ((State.Steady.sendPress _).trans (.presentPress _))
  exact h.turn .press (.inl ⟨rfl, by simp [State.face]⟩) (.inl (h.active (p := .press) idle (by decide)))
    (forall_ne_press rfl rfl) rfl rfl (.refl _)

theorem startHead (h : s.Agrees) (idle : s.press.state = .idle) (p : Port) (startBand lead trail window : Nat) :
    (s.startHead p startBand lead trail window).Agrees := by
  unfold State.startHead
  split
  · exact h.reply ..
  · split
    · exact h.reply ..
    · exact h.beginDelivery idle ..

/-! ## A view -/

theorem endView (h : s.Agrees) (e : Ending) (resume : Nat) : (s.endView e resume).Agrees := by
  cases running : s.view with
  | none => rwa [State.endView_none running]
  | some x =>
    have ended := State.endView_some running e resume
    refine h.turn .proof (.inr ?_) (.inl (h.active_of_busy (p := .proof) (h.proof_outbound running)))
      (forall_ne_proof (by simp [State.face]) (by simp [State.face])) (by simp) (by simp) ?_ <;> rw [ended]
    · exact ⟨workless_idle, by simp [State.face]⟩
    · exact s.sched.steady_withdrawRead _

theorem proofDamage (h : s.Agrees) (c : ProofChannel) : (s.proofDamage c).Agrees :=
  (h.steady (t := s.reportDamage c.handle c.band) (.directory ..)).endView ..

theorem proofDecoded (h : s.Agrees) : s.proofDecoded.Agrees := by
  unfold State.proofDecoded
  split
  · exact h
  · next c active =>
    split
    · split
      · exact h
      · exact h.steady ((State.Steady.proofChannel active _).trans (.sendView _))
      · exact h.proofDamage c
    · exact h

theorem proofRead (h : s.Agrees) (data : ReadData) : (s.proofRead data).Agrees := by
  unfold State.proofRead
  split
  · exact h
  · next c active =>
    split
    · split
      · exact h.steady ((State.Steady.proofChannel active _).trans (.presentProof _))
      · exact h.proofDamage c
    · exact h

theorem acceptView (h : s.Agrees) {x : ViewRecord} (running : s.view = some x) (r : ViewRef) :
    (s.acceptView x r).Agrees := by
  unfold State.acceptView
  dsimp only
  generalize (if x.endsBand r = true then x.firstNotSent + 1 else x.firstNotSent) = firstNotSent
  have advanced : s.Steady { s with
      proofChannel := if x.endsPlaneBand r then s.proofChannel.map (ProofChannel.advance x) else s.proofChannel } := by
    split
    · exact .mapProofChannel s _
    · exact .refl s
  have record := h.steady (advanced.trans (.view (by exact running)
    { x with outstanding := none, firstNotSent := firstNotSent }))
  split
  · exact record.endView ..
  · exact record.steady ((State.Steady.sendView _).trans (.presentProof _))

theorem proofToken (h : s.Agrees) (code : Byte) : (s.proofToken code).Agrees := by
  unfold State.proofToken
  split
  · exact (h.steady (t := { s with proofLate := false }) ⟨fun _ => rfl, rfl, rfl, .refl _⟩).steady (.sendView _)
  · split
    · exact h.steady (.markStray ..)
    · next x running =>
      split
      · exact h.steady (.markStray ..)
      · split
        · exact h.steady (.markStray ..)
        · exact h.acceptView running _
        · exact (h.steady (.view running _)).endView ..

theorem beginView (h : s.Agrees) (idle : s.proof.state = .idle) (x : ViewRecord) : (s.beginView x).Agrees := by
  unfold State.beginView
  dsimp only
  refine (State.Agrees.reply ?_ ..).steady ((State.Steady.sendView _).trans (.presentProof _))
  exact h.turn .proof (.inl ⟨rfl, by simp [State.face]⟩) (.inl (h.active (p := .proof) idle (by decide)))
    (forall_ne_proof rfl rfl) rfl rfl (.refl _)

theorem openView (h : s.Agrees) (idle : s.proof.state = .idle) (p : Port) (q : ViewParams) :
    (s.openView p q).Agrees := by
  unfold State.openView
  split
  · exact h.reply ..
  · exact h.beginView idle _

theorem blockToken (h : s.Agrees) (p : Port) (code : Byte) : (s.blockToken p code).Agrees := by
  cases p with
  | compose => exact h.steady (.markStray ..)
  | press => exact h.pressToken code
  | proof => exact h.proofToken code

theorem stopDelivery (h : s.Agrees) (p : Port) : (s.stopDelivery p).Agrees := by
  unfold State.stopDelivery
  dsimp only
  refine State.Agrees.reply ?_ ..
  split
  · split
    · exact h.endPress ..
    · exact h
  · split
    · exact h.endView ..
    · exact h
  · exact h

/-! ## Commands of the directory and the queue -/

theorem queryPage (h : s.Agrees) (p : Port) (k : Handle) (e : Nat) : (s.queryPage p k e).Agrees := by
  unfold State.queryPage
  split_ifs <;> exact h.reply ..

theorem listPages (h : s.Agrees) (p : Port) (first count : Nat) : (s.listPages p first count).Agrees := by
  unfold State.listPages
  split_ifs <;> exact h.reply ..

theorem releasePages (h : s.Agrees) (p : Port) (first last : Nat) : (s.releasePages p first last).Agrees := by
  by_cases order : last < first
  · rw [State.releasePages, if_pos order]
    exact h.reply ..
  · rw [State.releasePages_eq _ _ (by omega)]
    exact (h.steady (.foldl_releaseOne ..)).reply ..

theorem holdPage (h : s.Agrees) (p : Port) (k : Handle) (reason : Byte) : (s.holdPage p k reason).Agrees := by
  unfold State.holdPage
  split
  · exact h.reply ..
  · exact (h.steady (.directory ..)).reply ..

theorem liftPage (h : s.Agrees) (p : Port) (k : Handle) : (s.liftPage p k).Agrees :=
  (h.steady (.directory ..)).reply ..

theorem enqueuePage (h : s.Agrees) (p : Port) (k : Handle) (n : Nat) : (s.enqueuePage p k n).Agrees := by
  unfold State.enqueuePage
  split
  · exact h.reply ..
  · exact (h.steady (.directory ..)).reply ..

theorem rebindPages (h : s.Agrees) (p : Port) (old new : Handle) : (s.rebindPages p old new).Agrees := by
  unfold State.rebindPages
  split
  · exact h.reply ..
  · exact (h.steady ((State.Steady.directory ..).trans (.dropRefs ..))).reply ..

theorem skipHead (h : s.Agrees) (p : Port) : (s.skipHead p).Agrees := by
  unfold State.skipHead
  split
  · exact h.reply ..
  · exact (h.steady (.removeHead s)).reply ..

/-! ## Links and resets -/

theorem restPort (h : s.Agrees) (idle : (s.port p).state = .idle) : (s.restPort p).Agrees := by
  refine (State.Agrees.reply ?_ ..).judgeRest
  have face : (s.setPortState p .resting).face p = (.resting, (s.face p).2) := s.face_setPort ..
  have none := (h.ports p).none (by rw [State.face_state, idle]; exact workless_idle)
  exact h.turn p (face ▸ .inr ⟨workless_resting, none⟩) (.inr (face ▸ .inl rfl)) (fun q other => s.face_setPort_ne other _)
    (by simp) (by simp) (by rw [State.setPortState_sched]; exact .refl _)

theorem wakePort (h : s.Agrees) (resting : (s.port p).state = .resting) : (s.wakePort p).Agrees :=
  h.wakes (resting ▸ workless_resting) (.reply ..)

theorem linkUp (h : s.Agrees) (down : (s.port p).state = .down) : (s.setPortState p .idle).wakeStore.Agrees :=
  h.wakes (down ▸ workless_down) (.refl _)

/-- A port goes DOWN without its work (R172). -/
theorem loses (h : s.Agrees) (none : ∀ b ∈ (t.face p).2, b = false) (others : ∀ q, q ≠ p → t.face q = s.face q)
    (mode : t.mode = s.mode) (retained : t.retained = s.retained) (sched : s.sched.Steady t.sched) :
    (t.updatePort p (·.lost)).judgeRest.Agrees := by
  have face : (t.updatePort p (·.lost)).face p = (.down, (t.face p).2) := t.face_setPort ..
  exact judgeRest (h.turn p (face ▸ .inr ⟨workless_down, none⟩) (.inr (face ▸ .inr rfl))
    (fun q other => (t.face_setPort_ne other _).trans (others q other)) (by simpa using mode) (by simpa using retained)
    (by simpa using sched))

theorem linkLoss (h : s.Agrees) (p : Port) : ((s.loseWork p).updatePort p (·.lost)).judgeRest.Agrees := by
  cases p with
  | compose =>
    have sched : s.sched.Steady s.tear.sched := by
      rcases s.tear_sched with e | e <;> rw [e]
      · exact s.sched.steady_withdrawWrite
      · exact .refl _
    exact h.loses (t := s.tear) (by simp [State.face, s.tear_encoder])
      (forall_ne_compose (by simp [State.face]) (by simp [State.face])) (by simp) (by simp) sched
  | press =>
    exact h.loses (t := s.dropDelivery) (by simp [State.face, State.dropDelivery, State.idlePress])
      (forall_ne_press rfl rfl) rfl rfl s.sched.steady_withoutPress
  | proof =>
    have dropped : s.dropView.view = none ∧ s.dropView.proofChannel = none ∧
        s.dropView.sched = s.sched.withdrawRead .proof := by
      cases running : s.view with
      | none => rw [State.dropView_none running]; exact ⟨running, rfl, rfl⟩
      | some x => rw [State.dropView_eq running]; exact ⟨rfl, rfl, rfl⟩
    obtain ⟨view, channel, sched⟩ := dropped
    exact h.loses (t := s.dropView) (by simp [State.face, view, channel])
      (forall_ne_proof (by simp [State.face]) (by simp [State.face])) (by simp) (by simp)
      (sched ▸ s.sched.steady_withdrawRead _)

theorem deviceReset (h : s.Agrees) : s.allGivenUp.wakeStore.Agrees := by
  rw [State.allGivenUp_eq]
  refine State.agrees_wakeStore (fun p => .inr ?_) (h.store.steady rfl rfl s.sched.steady_bare)
  cases p <;> exact ⟨workless_down, by simp [State.face]⟩

/-! ## Events of the store -/

theorem completeWrite (h : s.Agrees) (w : WriteReq) (live : Bool) (u : UnitAddr) : (s.completeWrite w live u).Agrees := by
  have written := h.steady (.store s (s.store.write u w.offset w.data))
  unfold State.completeWrite
  dsimp only
  split
  · exact written.writeDone
  · exact written.steady (.presentWrite _)

theorem completePressRead (h : s.Agrees) (r : ReadReq) (live : Bool) (u : UnitAddr) :
    (s.completePressRead r live u).Agrees := by
  unfold State.completePressRead
  split
  · exact h.pressRead ..
  · exact h.steady (.presentPress _)

theorem completeProofRead (h : s.Agrees) (r : ReadReq) (live : Bool) (u : UnitAddr) :
    (s.completeProofRead r live u).Agrees := by
  unfold State.completeProofRead
  split
  · exact h.proofRead _
  · exact h.steady (.presentProof _)

theorem finishTransfer {addr : Option UnitAddr} {k : UnitAddr → State} (completes : ∀ u, (k u).Agrees)
    (next : finishTransfer addr k = .next t) : t.Agrees := by
  unfold Machine.finishTransfer at next
  split at next
  · cases next
    exact (completes _).settle
  · cases next

theorem transferCompletion (h : s.Agrees) {change : StoreChange} (next : execTransferCompletion change s = .next t) :
    t.Agrees := by
  have freed : (s.freed change).Agrees := h.steady (.freed s change)
  unfold execTransferCompletion at next
  split at next
  · exact finishTransfer (fun u => freed.completeWrite _ _ u) next
  · exact finishTransfer (fun u => freed.completePressRead _ _ u) next
  · exact finishTransfer (fun u => freed.completeProofRead _ _ u) next
  · cases next; exact h
  · cases next; exact h

theorem refreshCompletion (h : s.Agrees) (next : execRefreshCompletion s = .next t) : t.Agrees := by
  obtain rfl := Host.Outcome.next.inj next
  split
  · exact (h.steady (.updateSched s.sched.steady_release)).settle
  · exact h

theorem refreshTimerExpiry (h : s.Agrees) (next : execRefreshTimerExpiry s = .next t) : t.Agrees := by
  obtain rfl := Host.Outcome.next.inj next
  split
  · next running => exact (h.steady (.updateSched (Scheduler.steady_expire running _))).settle
  · exact h

theorem thermalReading (h : s.Agrees) {x : SensorValue} (next : execThermalReading x s = .next t) : t.Agrees := by
  obtain rfl := Host.Outcome.next.inj next
  have read : (s.takeReading (readingOf x)).Agrees := h.steady ⟨fun _ => rfl, rfl, rfl, .refl _⟩
  show State.Agrees (ite _ _ _)
  split
  · exact read.settle
  · exact read

/-! ## Events of the encoder and of the deliveries -/

theorem lineCodingEnd (h : s.Agrees) (next : execLineCodingEnd s = .next t) : t.Agrees := by
  obtain rfl := Host.Outcome.next.inj next
  split
  · next w working =>
    split
    · exact h.tokenJudged working _ .accept
    · exact h
  · exact h

theorem extentTake (h : s.Agrees) (next : execExtentTake s = .next t) : t.Agrees := by
  obtain rfl := Host.Outcome.next.inj next
  split
  · next w working =>
    split
    · exact h.takeForCommit working
    · exact h
  · exact h

theorem planeBandDecoded (h : s.Agrees) {slot : DecodeSlot} (next : execPlaneBandDecoded slot s = .next t) :
    t.Agrees := by
  obtain rfl := Host.Outcome.next.inj next
  cases slot with
  | press k => exact h.pressDecoded k
  | proof => exact h.proofDecoded

theorem bandWindowExpiry (h : s.Agrees) (next : execBandWindowExpiry s = .next t) : t.Agrees := by
  obtain rfl := Host.Outcome.next.inj next
  split
  · split
    · exact h.endPress ..
    · exact h
  · exact h

end State.Agrees

/-! ## Every command -/

/-- What reaches a DOWN port changes nothing. -/
theorem State.Agrees.unlessDown (h : s.Agrees) (rule : t.Agrees) :
    (if (s.port p).state = .down then s else t).Agrees := by
  split
  · exact h
  · exact rule

theorem State.takes.port_eq {c : Cmd} {q : Port} (h : s.takes p c) (ports : c.ports = [q]) : p = q := by
  simpa [ports] using h.allowed.1

theorem State.takes.taken_state {c : Cmd} {st : PortState} (h : s.takes p c) (states : c.states = [st]) :
    ((s.taken p c).port p).state = st := by
  rw [State.taken_state]
  simpa [states] using h.allowed.2

theorem State.reset_agrees (rest : List Instr) (draws : Vector Nat 8) :
    State.Agrees { State.reset with pending := rest, undefinedDraws := draws } :=
  (State.blocksAgree_iff.mp State.reset_blocksAgree).steady ⟨fun _ => rfl, rfl, rfl, .refl _⟩

theorem exec_keeps_agrees {i : Instr} (h : s.Agrees) (next : exec i s = .next t) : t.Agrees := by
  cases i with
  | status p => cases next; exact h.judge fun _ a => (a.reply ..).steady (.setPort _ p rfl)
  | queryPage => cases next; exact h.judge fun _ a => a.queryPage ..
  | listPages => cases next; exact h.judge fun _ a => a.listPages ..
  | openPage p q =>
    cases next
    exact h.judge fun takes a => by
      cases takes.port_eq rfl
      exact a.openPage (takes.taken_state rfl) _ q
  | openPageContinue p k =>
    cases next
    exact h.judge fun takes a => by
      cases takes.port_eq rfl
      exact a.continuePage (takes.taken_state rfl) _ k
  | sealPage p => cases next; exact h.judge fun _ a => a.sealPage p
  | abandonPage p =>
    cases next
    exact h.judge fun takes a => by
      cases takes.port_eq rfl
      exact a.abandonPage (takes.taken_state rfl) _
  | enqueue => cases next; exact h.judge fun _ a => a.enqueuePage ..
  | rebind => cases next; exact h.judge fun _ a => a.rebindPages ..
  | release => cases next; exact h.judge fun _ a => a.releasePages ..
  | peekQueue => cases next; exact h.judge fun _ a => a.reply ..
  | start p =>
    cases next
    exact h.judge fun takes a => by
      cases takes.port_eq rfl
      exact a.startHead (takes.taken_state rfl) ..
  | skip p => cases next; exact h.judge fun _ a => a.skipHead p
  | stop p => cases next; exact h.judge fun _ a => a.stopDelivery p
  | view p q =>
    cases next
    exact h.judge fun takes a => by
      cases takes.port_eq rfl
      exact a.openView (takes.taken_state rfl) _ q
  | hold => cases next; exact h.judge fun _ a => a.holdPage ..
  | lift => cases next; exact h.judge fun _ a => a.liftPage ..
  | rest p => cases next; exact h.judge fun takes a => a.restPort (takes.taken_state rfl)
  | wake p => cases next; exact h.judge fun takes a => a.wakePort (takes.taken_state rfl)
  | unknownCommand p code =>
    cases next
    refine h.unlessDown ?_
    split
    · exact h.steady (.markStray ..)
    · exact (h.steady (t := s.updatePort p (·.take code)) (.setPort s p rfl)).reply ..
  | frameCheckFailure p => cases next; exact h.unlessDown (h.steady (.setPort s p rfl))
  | lineBlock p b => cases next; exact h.unlessDown (h.lineBlock p b)
  | blockToken p code => cases next; exact h.unlessDown (h.blockToken p code)
  | strayByte => cases next; exact h.unlessDown (h.steady (.markStray ..))
  | linkUp p =>
    cases next
    split
    · next down => exact h.linkUp down
    · exact h
  | linkLoss p => cases next; exact h.unlessDown (h.linkLoss p)
  | deviceReset => rw [exec_deviceReset] at next; cases next; exact h.deviceReset
  | powerOnReset => cases next; exact State.reset_agrees ..
  | lineCodingEnd => exact h.lineCodingEnd next
  | extentTake => exact h.extentTake next
  | transferCompletion => exact h.transferCompletion next
  | refreshCompletion => exact h.refreshCompletion next
  | planeBandDecoded => exact h.planeBandDecoded next
  | refreshTimerExpiry => exact h.refreshTimerExpiry next
  | bandWindowExpiry => exact h.bandWindowExpiry next
  | thermalReading => exact h.thermalReading next
  | frameSent p => cases next; exact h.steady (.setPort s p (PortRec.Moves.state .sent))

end Sys2Proof.Machine

section
open Sys2Proof Sys2Proof.Machine

/-- Settles O58: read port by port and for the store, the agreement is kept by every operation, and so by every
command and step. -/
theorem stepKeepsBlocksAgree : Obligations.StepKeepsBlocksAgree := by
  intro s t h kept
  rw [State.blocksAgree_iff] at kept ⊢
  exact step_keeps h kept id (fun _ agrees => agrees.steady ⟨fun _ => rfl, rfl, rfl, .refl _⟩) fun _ _ => exec_keeps_agrees

end

/-! # Deliveries and views that end, and damage found (R12, R95, R101, R105, R125, R142) -/

namespace Sys2Proof.Machine

variable {s : State}

/-- An ending other than DONE leaves the queue as it is (R125). -/
theorem State.endPress_eq {d : Delivery} (running : s.delivery = some d) (up : s.press.state ≠ .down) {e : Ending}
    (early : e ≠ .done) (resume : Nat) : s.endPress e resume = s.pressEnded d e resume := by
  rw [State.endPress_some running, State.afterPress, if_neg early, PortRec.send_eq _ _ up]
  rfl

theorem State.removeHead_cons {h : Handle} {rest : List Handle} (queue : s.queue = h :: rest) :
    s.removeHead = { s with queue := rest }.dropRefs h 1 := by rw [State.removeHead, queue]

/-- A delivery that is DONE takes the head entry with it (R125, R126). -/
theorem State.endPress_done {d : Delivery} {h : Handle} {rest : List Handle} (running : s.delivery = some d)
    (up : s.press.state ≠ .down) (queue : s.queue = h :: rest) (resume : Nat) : s.endPress .done resume =
      { s.pressEnded d .done resume with queue := rest }.dropRefs h 1 := by
  have ended := State.dropRefs_congr (s := { s with queue := rest })
    (u := { s.pressEnded d .done resume with queue := rest }) rfl rfl rfl h 1
  have head := State.dropRefs_congr (s := { s with queue := rest }) (u := { s with queue := rest }) rfl rfl rfl h 1
  rw [ended, State.endPress_some running, State.afterPress, if_pos rfl, PortRec.send_eq _ _ up,
    State.removeHead_cons queue, head]
  rfl

theorem State.endView_eq {v : ViewRecord} (running : s.view = some v) (up : s.proof.state ≠ .down) (e : Ending)
    (resume : Nat) : s.endView e resume = s.viewEnded v e resume := by
  rw [State.endView_some running, PortRec.send_eq _ _ up]
  rfl

/-! ## Damage -/

theorem PageRecord.markDamaged_eq (r : PageRecord) (n : Nat) : r.markDamaged n = r.damagedAt n := by
  rw [PageRecord.markDamaged, PageRecord.damagedAt]
  cases r.firstDamaged <;> rfl

theorem State.reportDamage_eq (s : State) (h : Handle) (n : Nat) :
    s.reportDamage h n = s.setPage h ((s.page h).damagedAt n) := by
  rw [State.reportDamage, State.updatePage, PageRecord.markDamaged_eq]

/-- Whether a buffer holds a band below the stop band. -/
def BandBuffer.below (stop : Nat) (x : BandBuffer) : Bool := x.band.any fun b => b < stop

theorem BandBuffer.discardFrom_eq (stop : Nat) (x : BandBuffer) :
    x.discardFrom stop = if x.below stop then x else .empty := by
  have held (b : Nat) : (if stop ≤ b then .empty else x) = if b < stop then x else .empty := by
    by_cases low : b < stop
    · rw [if_pos low, if_neg (Nat.not_le.mpr low)]
    · rw [if_neg low, if_pos (Nat.not_lt.mp low)]
  cases x with
  | empty => rfl
  | decoding b _ _ _ => simpa [discardFrom, below, BandBuffer.band] using held b
  | ready b _ => simpa [discardFrom, below, BandBuffer.band] using held b
  | sending b _ => simpa [discardFrom, below, BandBuffer.band] using held b

/-- DAMAGED is handed over once no buffer holds a band below the stop band (R101, R130). -/
theorem State.handOverDamage_eq {c : PressChannel} {d : Delivery} {n : Nat} (active : s.pressChannel = some c)
    (stop : c.stopBand = some n) (running : s.delivery = some d) (up : s.press.state ≠ .down) : s.handOverDamage =
      if c.bufferA.below n ∨ c.bufferB.below n then s else s.pressEnded d .damaged n := by
  rw [← State.endPress_eq running up (by decide), State.handOverDamage]
  simp only [active, stop]
  rfl

theorem State.withdrawIfEmpty_eq (s : State) (c : PressChannel) (k : BufferId) : s.withdrawIfEmpty c k =
    { s with sched := if c.buffer k = .empty then s.sched.withdrawRead (.press k) else s.sched } := by
  rw [State.withdrawIfEmpty]
  split <;> rfl

/-- What the press channel does with damage at band `n` (R95, R101, Table 5-3). -/
theorem State.pressDamage_eq {d : Delivery} (running : s.delivery = some d) (up : s.press.state ≠ .down)
    (c : PressChannel) (n : Nat) : s.pressDamage c n = s.pressDamaged c d n := by
  rw [State.pressDamage, State.reportDamage_eq, State.withdrawIfEmpty_eq, State.withdrawIfEmpty_eq]
  refine (State.handOverDamage_eq (by rfl) (by rfl) (by exact running) (by exact up)).trans ?_
  simp only [PressChannel.buffer, PressChannel.mapBuffers, BandBuffer.discardFrom_eq]
  cases stop : c.stopBand with
  | none =>
    rw [State.pressDamaged, stop]
    rfl
  | some m =>
    rw [State.pressDamaged, stop]
    rfl

theorem State.proofDamage_eq {v : ViewRecord} (running : s.view = some v) (up : s.proof.state ≠ .down)
    (c : ProofChannel) : s.proofDamage c = s.viewDamaged c v := by
  rw [State.proofDamage, State.reportDamage_eq]
  exact State.endView_eq (by exact running) (by exact up) _ _

end Sys2Proof.Machine

/-! # Reads that complete, and plane-bands that finish (R92 to R95, R99 to R105, R154) -/

namespace Sys2Proof.Machine

variable {s : State}

/-! ## What a completed read brings a plane-band -/

theorem Decoding.take_entry {p : Shape} {band n : Nat} {e : IndexEntry} (sound : soundEntry e (p.raw band) n) (plane : Nat)
    (d : Decoding) : d.take (p.decode band plane) n (.entry e) = some { d with entry := some e } :=
  if_pos ((entryGood_iff p band plane n e).mpr sound)

theorem Decoding.take_unsound {p : Shape} {band n : Nat} {e : IndexEntry} (unsound : ¬ soundEntry e (p.raw band) n)
    (plane : Nat) (d : Decoding) : d.take (p.decode band plane) n (.entry e) = none :=
  if_neg (mt (entryGood_iff p band plane n e).mp unsound)

theorem Decoding.take_bytes {d : Decoding} {e : IndexEntry} (entry : d.entry = some e) (p : DecodeShape) (n : Nat)
    (bs : List Byte) : d.take p n (.bytes bs) = some (d.feed p e bs) := by rw [Decoding.take, entry]

/-! ## The press channel -/

section Press

variable {c : PressChannel} {k : BufferId} {band plane : Nat} {work : Decoding} {planes : List (List Byte)}

theorem State.pressRead_fed {work' : Decoding} {data : ReadData} (active : s.pressChannel = some c)
    (decoding : c.buffer k = .decoding band plane work planes)
    (taken : work.take (c.shape.decode band plane) (s.page c.handle).streamLength data = some work') :
    s.pressRead k data =
      { s with pressChannel := some (c.setBuffer k (.decoding band plane work' planes)) }.presentPress := by
  simp only [State.pressRead, active, decoding, taken]

theorem State.pressRead_damage {d : Delivery} {data : ReadData} (active : s.pressChannel = some c)
    (running : s.delivery = some d) (up : s.press.state ≠ .down) (decoding : c.buffer k = .decoding band plane work planes)
    (malformed : work.take (c.shape.decode band plane) (s.page c.handle).streamLength data = none) :
    s.pressRead k data = (s.pressDamaged c d band).presentPress := by
  simp only [State.pressRead, active, decoding, malformed, State.pressDamage_eq running up]

/-- A read that is waited for hands its unit's contents, as they stand, to the buffer that asked (R154). -/
theorem exec_pressRead_hands {q : ReadReq} {u : UnitAddr} (granted : s.sched.grant = some (.press q true))
    (slot : q.slot = .press k) (unit : q.addr = some u) (present : u.present = true) (x : StoreChange) :
    let t := s.transferred (s.store.change x)
    exec (.transferCompletion x) s = .next (t.pressRead k (t.readUnit u q.target)).settle := by
  intro t
  rw [exec_pressRead granted, finishTransfer_present unit present]
  simp only [State.completePressRead, slot]
  rfl

end Press

/-! ## The proof channel -/

section Proof

variable {c : ProofChannel} {work : Decoding}

theorem State.proofRead_fed {work' : Decoding} {data : ReadData} (active : s.proofChannel = some c)
    (decoding : c.buffer = .decoding work)
    (taken : work.take (c.shape.decode c.band c.plane) (s.page c.handle).streamLength data = some work') :
    s.proofRead data = { s with proofChannel := some { c with buffer := .decoding work' } }.presentProof := by
  simp only [State.proofRead, active, decoding, taken]

theorem State.proofRead_damage {v : ViewRecord} {data : ReadData} (active : s.proofChannel = some c)
    (running : s.view = some v) (up : s.proof.state ≠ .down) (decoding : c.buffer = .decoding work)
    (malformed : work.take (c.shape.decode c.band c.plane) (s.page c.handle).streamLength data = none) :
    s.proofRead data = s.viewDamaged c v := by
  simp only [State.proofRead, active, decoding, malformed, State.proofDamage_eq running up]

theorem exec_proofRead_hands {q : ReadReq} {u : UnitAddr} (granted : s.sched.grant = some (.proof q true))
    (unit : q.addr = some u) (present : u.present = true) (x : StoreChange) :
    let t := s.transferred (s.store.change x)
    exec (.transferCompletion x) s = .next (t.proofRead (t.readUnit u q.target)).settle := by
  intro t
  rw [exec_proofRead granted, finishTransfer_present unit present]
  rfl

end Proof

end Sys2Proof.Machine

section

open Sys2Proof Sys2Proof.Machine

/-- Settles O26: what the read hands over is fed to the buffer that asked, unless it is an unsound entry. -/
theorem pressReadFeedsPlaneBand : Obligations.PressReadFeedsPlaneBand := by
  intro x q u k c d band plane work planes s granted slot unit present active running outbound decoding p t base fed
  have hands {data : ReadData} {after : State} (read : t.readUnit u q.target = data) (result : t.pressRead k data = after) :
      exec (.transferCompletion x) s = .next after.settle := by
    rw [exec_pressRead_hands granted slot unit present x, read, result]
  have up : t.press.state ≠ .down := by
    show s.press.state ≠ .down
    simp [outbound]
  refine ⟨fun off entry => ⟨fun sound => ?_, fun unsound => ?_⟩, fun off len e bytes entry => ?_⟩
  · exact hands (congrArg (t.readUnit u) entry) (State.pressRead_fed active decoding (Decoding.take_entry sound plane work))
  · exact hands (congrArg (t.readUnit u) entry)
      (State.pressRead_damage active running up decoding (Decoding.take_unsound unsound plane work))
  · exact hands (congrArg (t.readUnit u) bytes) (State.pressRead_fed active decoding (Decoding.take_bytes entry _ _ _))

/-- Settles O27: as for the press channel, with the view's ending for an unsound entry. -/
theorem proofReadFeedsPlaneBand : Obligations.ProofReadFeedsPlaneBand := by
  intro x q u c v work s granted unit present active running outbound decoding p t base fed
  have hands {data : ReadData} {after : State} (read : t.readUnit u q.target = data) (result : t.proofRead data = after) :
      exec (.transferCompletion x) s = .next after.settle := by
    rw [exec_proofRead_hands granted unit present x, read, result]
  have up : t.proof.state ≠ .down := by
    show s.proof.state ≠ .down
    simp [outbound]
  refine ⟨fun off entry => ⟨fun sound => ?_, fun unsound => ?_⟩, fun off len e bytes entry => ?_⟩
  · exact hands (congrArg (t.readUnit u) entry) (State.proofRead_fed active decoding (Decoding.take_entry sound c.plane work))
  · exact hands (congrArg (t.readUnit u) entry)
      (State.proofRead_damage active running up decoding (Decoding.take_unsound unsound c.plane work))
  · exact hands (congrArg (t.readUnit u) bytes) (State.proofRead_fed active decoding (Decoding.take_bytes entry _ _ _))

/-- Settles O28: the verdict's three cases, and damage as the channels treat it. -/
theorem planeBandDecodedByVerdict : Obligations.PlaneBandDecodedByVerdict := by
  refine ⟨fun k c d band plane work planes s active running outbound decoding => ?_,
    fun c v work s active running outbound decoding => ?_⟩
  · have up : s.press.state ≠ .down := by simp [outbound]
    show Host.Outcome.next (s.pressDecoded k) = _
    have damage := State.pressDamage_eq running up c band
    cases verdict : work.verdict (c.shape.decode band plane) with
    | none => simp only [State.pressDecoded, active, decoding, verdict]
    | some found => cases found with
      | verified xs => simp only [State.pressDecoded, active, decoding, verdict, BandBuffer.afterPlane]
      | damage => simp only [State.pressDecoded, active, decoding, verdict, damage]
  · have up : s.proof.state ≠ .down := by simp [outbound]
    show Host.Outcome.next s.proofDecoded = _
    have damage := State.proofDamage_eq running up c
    cases verdict : work.verdict (c.shape.decode c.band c.plane) with
    | none => simp only [State.proofDecoded, active, decoding, verdict]
    | some found => cases found <;> simp only [State.proofDecoded, active, decoding, verdict, damage]

end

/-! # Reads presented in order (R94, R99, R103, R151) -/

namespace Sys2Proof.Machine

variable {s : State}

/-! ## The press channel -/

section Press

variable {c : PressChannel}

/-- The press channel presents nothing while a read of its own waits or is in progress (R151). -/
theorem State.presentPress_busy (busy : s.sched.pressReq ≠ none ∨ s.sched.grant.any (·.isPress) = true) :
    s.presentPress = s := by
  rcases s.presentPress_cases with same | ⟨c, q, -, waits, grant, -⟩
  · exact same
  · exact absurd busy (by simp [waits, grant])

theorem State.presentPress_done (active : s.pressChannel = some c) (done : c.nextRead (s.page c.handle).extents = none) :
    s.presentPress = s := by
  rcases s.presentPress_cases with same | ⟨c', q, active', -, -, next, -⟩
  · exact same
  · cases active.symm.trans active'
    exact absurd (done.symm.trans next) nofun

/-- With no read of its own waiting or in progress, the press channel presents its next one (R94, R152). -/
theorem State.presentPress_asks {q : ReadReq} (active : s.pressChannel = some c)
    (free : ¬ (s.sched.pressReq ≠ none ∨ s.sched.grant.any (·.isPress) = true))
    (next : c.nextRead (s.page c.handle).extents = some q) :
    s.presentPress = { s with sched := Scheduler.grantNext { s.sched with pressReq := some q } s.thermal } := by
  rw [← Option.isSome_iff_ne_none] at free
  have presents : s.presentPress = (s.updateSched fun x => { x with pressReq := some q }).grantNext := by
    simp only [State.presentPress, active, if_neg free, next]
  exact presents

theorem PressChannel.bufferRead_of_no_band {k : BufferId} (idle : (c.buffer k).band = none) (extents : List Nat) :
    c.bufferRead k extents = none := by
  rw [PressChannel.bufferRead]
  cases buffer : c.buffer k with
  | decoding => simp [buffer, BandBuffer.band] at idle
  | _ => rfl

/-- Buffer A is served first unless buffer B holds a lower band (R99). -/
theorem PressChannel.nextRead_aFirst (lower : ∀ x, c.bufferA.band = some x → ∀ y, c.bufferB.band = some y → x < y)
    (extents : List Nat) : c.nextRead extents = (c.bufferRead .a extents).or (c.bufferRead .b extents) := by
  have first : c.aFirst = true := by
    rw [PressChannel.aFirst]
    split
    · next x y bandA bandB => simpa using (lower x bandA y bandB).le
    · rfl
  rw [PressChannel.nextRead, if_pos first]

theorem PressChannel.nextRead_bFirst (lower : ∀ x, c.bufferB.band = some x → ∀ y, c.bufferA.band = some y → x < y)
    (extents : List Nat) : c.nextRead extents = (c.bufferRead .b extents).or (c.bufferRead .a extents) := by
  cases bandA : c.bufferA.band with
  | none =>
    rw [PressChannel.nextRead, PressChannel.bufferRead_of_no_band (k := .a) bandA]
    split <;> simp
  | some x => cases bandB : c.bufferB.band with
    | none =>
      rw [PressChannel.nextRead, PressChannel.bufferRead_of_no_band (k := .b) bandB]
      split <;> simp
    | some y =>
      have second : c.aFirst = false := by simpa [PressChannel.aFirst, bandA, bandB] using lower y bandB x bandA
      rw [PressChannel.nextRead, second]
      rfl

/-- The buffer with the lower band is served first, the other only when that one has no read to make (R99). -/
theorem PressChannel.nextRead_lower {k j : BufferId} (other : k ≠ j)
    (lower : ∀ x, (c.buffer k).band = some x → ∀ y, (c.buffer j).band = some y → x < y) (extents : List Nat) :
    c.nextRead extents = (c.bufferRead k extents).or (c.bufferRead j extents) := by
  cases k with
  | a => cases j with
    | a => exact absurd rfl other
    | b => exact PressChannel.nextRead_aFirst lower extents
  | b => cases j with
    | a => exact PressChannel.nextRead_bFirst lower extents
    | b => exact absurd rfl other

end Press

/-! ## The proof channel -/

section Proof

variable {c : ProofChannel} {work : Decoding} {q : ReadReq}

theorem State.presentProof_busy (busy : s.sched.proofReq ≠ none ∨ s.sched.grant.any (·.isProof) = true) :
    s.presentProof = s := by
  rcases s.presentProof_cases with same | ⟨c, work, q, -, -, waits, grant, -⟩
  · exact same
  · exact absurd busy (by simp [waits, grant])

/-- The read the proof channel has to make (R103). -/
def ProofChannel.nextRead (c : ProofChannel) (extents : List Nat) : Option ReadReq :=
  match c.buffer with
  | .decoding work => work.nextRead .proof c.handle (c.band * c.shape.planes + c.plane) extents
  | _ => none

theorem State.presentProof_done (active : s.proofChannel = some c) (done : c.nextRead (s.page c.handle).extents = none) :
    s.presentProof = s := by
  rcases s.presentProof_cases with same | ⟨c', work, q, active', decoding, -, -, next, -⟩
  · exact same
  · cases active.symm.trans active'
    simp only [ProofChannel.nextRead, decoding] at done
    exact absurd (done.symm.trans next) nofun

theorem State.presentProof_asks (active : s.proofChannel = some c)
    (free : ¬ (s.sched.proofReq ≠ none ∨ s.sched.grant.any (·.isProof) = true))
    (next : c.nextRead (s.page c.handle).extents = some q) :
    s.presentProof = { s with sched := Scheduler.grantNext { s.sched with proofReq := some q } s.thermal } := by
  rw [← Option.isSome_iff_ne_none] at free
  have presents : s.presentProof = (s.updateSched fun x => { x with proofReq := some q }).grantNext := by
    cases buffer : c.buffer with
    | decoding work =>
      simp only [ProofChannel.nextRead, buffer] at next
      simp only [State.presentProof, active, buffer, if_neg free, next]
    | empty => simp [ProofChannel.nextRead, buffer] at next
    | sending => simp [ProofChannel.nextRead, buffer] at next
  exact presents

end Proof

end Sys2Proof.Machine

section

open Sys2Proof Sys2Proof.Machine

/-- Settles O29: nothing is presented while a read is out; else the lower band's read, then the other's. -/
theorem readsPresentedInOrder : Obligations.ReadsPresentedInOrder := by
  refine ⟨?_, ?_⟩
  · intro s c active need asked busy
    refine ⟨fun out => State.presentPress_busy out, fun free k j other lower => ?_⟩
    have order : c.nextRead (s.page c.handle).extents = (need k).or (need j) := PressChannel.nextRead_lower other lower _
    refine ⟨fun q first => ?_, fun none q second => ?_, fun none none' => ?_⟩
    · exact State.presentPress_asks active free (by rw [order, first, Option.some_or])
    · exact State.presentPress_asks active free (by rw [order, none, second, Option.none_or])
    · exact State.presentPress_done active (by rw [order, none, none', Option.none_or])
  · intro s c active need busy
    refine ⟨fun still => ?_, fun free q next => State.presentProof_asks active free next⟩
    rcases still with out | done
    · exact State.presentProof_busy out
    · exact State.presentProof_done active done

end

/-! # The press buffers at their turn, and a band completion (R98, R100) -/

namespace Sys2Proof.Machine

/-! ## Buffers that take their turn -/

section Turns

variable {d : Delivery} {c : PressChannel}

theorem State.promote_eq {s : State} (running : s.delivery = some d) (active : s.pressChannel = some c) :
    s.promote = { s with pressChannel := some (c.mapBuffers (·.promote d)) } := by
  simp only [State.promote, running, active]

theorem BandBuffer.promote_ready (turn : d.phase ≠ .lead) (planes : List (List Byte)) :
    (BandBuffer.ready d.firstNotComplete planes).promote d = .sending d.firstNotComplete planes := if_pos ⟨turn, rfl⟩

/-- A buffer that is not READY with the first band not completed stays as it is. -/
theorem BandBuffer.promote_other {x : BandBuffer} (other : ∀ planes, x ≠ .ready d.firstNotComplete planes) :
    x.promote d = x := by
  cases x with
  | ready band planes => exact if_neg fun ⟨_, first⟩ => other planes (first ▸ rfl)
  | _ => rfl

theorem BandBuffer.endSending_other {x : BandBuffer} (other : ∀ band planes, x ≠ .sending band planes) :
    x.endSending = x := by
  cases x with
  | sending band planes => exact absurd rfl (other band planes)
  | _ => rfl

theorem BandBuffer.promote_eq_empty {x : BandBuffer} : x.promote d = .empty ↔ x = .empty := by
  cases x with
  | ready band planes =>
    rw [BandBuffer.promote]
    split <;> simp
  | _ => simp [BandBuffer.promote]

end Turns

/-! ## Buffers assigned the bands that remain (R98) -/

/-- A band that remains to be assigned: below the band count and the stop band (R98). -/
def PressChannel.Remains (c : PressChannel) (band : Nat) : Prop :=
  band < c.shape.bands ∧ ∀ n, c.stopBand = some n → band < n

theorem PressChannel.belowStop_iff (c : PressChannel) (band : Nat) :
    c.belowStop band = true ↔ ∀ n, c.stopBand = some n → band < n := by
  cases stop : c.stopBand <;> simp [PressChannel.belowStop, stop]

variable {c : PressChannel} {k : BufferId}

/-- An EMPTY buffer with a band left begins to decode it. -/
theorem PressChannel.assign_empty (idle : c.buffer k = .empty) (room : c.Remains c.nextBand) : c.assign k =
    { c.setBuffer k (.decoding c.nextBand 0 Decoding.initial []) with nextBand := c.nextBand + 1 } :=
  if_pos ⟨idle, room.1, (c.belowStop_iff _).mpr room.2⟩

theorem PressChannel.assign_full (none : ¬ c.Remains c.nextBand) : c.assign k = c :=
  if_neg fun ⟨_, room, stop⟩ => none ⟨room, (c.belowStop_iff _).mp stop⟩

theorem PressChannel.assign_busy (busy : c.buffer k ≠ .empty) : c.assign k = c := if_neg fun ⟨idle, _⟩ => busy idle

theorem PressChannel.Remains.pred {band : Nat} (room : c.Remains (band + 1)) : c.Remains band :=
  ⟨Nat.lt_of_succ_lt room.1, fun n stop => Nat.lt_of_succ_lt (room.2 n stop)⟩

/-- An assignment changes the next band and the buffers alone. -/
theorem PressChannel.assignAll_frame (c : PressChannel) : c.assignAll = { c with
    nextBand := c.assignAll.nextBand, bufferA := c.assignAll.bufferA, bufferB := c.assignAll.bufferB } := by
  have frame (c : PressChannel) (k : BufferId) : c.assign k = { c with
      nextBand := (c.assign k).nextBand, bufferA := (c.assign k).bufferA, bufferB := (c.assign k).bufferB } := by
    rw [PressChannel.assign]
    split
    · cases k <;> rfl
    · rfl
  rw [PressChannel.assignAll, frame (c.assign .a), frame c]

theorem PressChannel.buffer_assign_ne {j : BufferId} (other : k ≠ j) (c : PressChannel) :
    (c.assign k).buffer j = c.buffer j := by
  rw [PressChannel.assign]
  split
  · exact (c.buffer_setBuffer ..).trans (if_neg other.symm)
  · rfl

/-- With one buffer at work, the other alone is assigned. -/
theorem PressChannel.assignAll_other {j : BufferId} (other : k ≠ j) (busy : c.buffer j ≠ .empty) :
    c.assignAll = c.assign k := by
  have kept := PressChannel.buffer_assign_ne other c
  rw [PressChannel.assignAll]
  cases k with
  | a => cases j with
    | a => exact absurd rfl other
    | b => exact PressChannel.assign_busy (kept ▸ busy)
  | b => cases j with
    | a => rw [PressChannel.assign_busy busy]
    | b => exact absurd rfl other

theorem PressChannel.assignAll_full (none : ¬ c.Remains c.nextBand) : c.assignAll = c := by
  rw [PressChannel.assignAll, PressChannel.assign_full none, PressChannel.assign_full none]

/-- The first of the bands that remain goes to buffer A, the second to buffer B, if there is one. -/
theorem PressChannel.assignAll_empty (idleA : c.bufferA = .empty) (idleB : c.bufferB = .empty)
    (room : c.Remains c.nextBand) :
    let one : PressChannel :=
      { c with bufferA := .decoding c.nextBand 0 Decoding.initial [], nextBand := c.nextBand + 1 }
    (¬ c.Remains (c.nextBand + 1) → c.assignAll = one) ∧
    (c.Remains (c.nextBand + 1) → c.assignAll =
      { one with bufferB := .decoding (c.nextBand + 1) 0 Decoding.initial [], nextBand := c.nextBand + 2 }) := by
  intro one
  have first : c.assign .a = one := PressChannel.assign_empty idleA room
  rw [PressChannel.assignAll, first]
  exact ⟨fun last => PressChannel.assign_full (c := one) last, fun more => PressChannel.assign_empty (c := one) idleB more⟩

/-! ## A band completion (R100) -/

/-- The channel once the SENDING buffer is emptied and the other has taken its turn (R100, steps 1 and 2). -/
def PressChannel.turned (d : Delivery) (c : PressChannel) : PressChannel :=
  (c.mapBuffers (·.endSending)).mapBuffers (·.promote d)

theorem PressChannel.completeBand_eq (d : Delivery) (c : PressChannel) : c.completeBand d = (c.turned d).assignAll := rfl

theorem PressChannel.turned_sending {band : Nat} {planes : List (List Byte)} (sending : c.buffer k = .sending band planes)
    (d : Delivery) : (c.turned d).buffer k = .empty := by
  rw [PressChannel.turned, PressChannel.buffer_mapBuffers, PressChannel.buffer_mapBuffers, sending]
  rfl

/-- A buffer that was not SENDING takes its turn. -/
theorem PressChannel.turned_other (other : ∀ band planes, c.buffer k ≠ .sending band planes) (d : Delivery) :
    (c.turned d).buffer k = (c.buffer k).promote d := by
  rw [PressChannel.turned, PressChannel.buffer_mapBuffers, PressChannel.buffer_mapBuffers,
    BandBuffer.endSending_other other]

theorem BufferId.eq_or_eq {k j : BufferId} (other : k ≠ j) (i : BufferId) : i = k ∨ i = j := by
  cases k <;> cases j <;> cases i <;> simp at other ⊢

end Sys2Proof.Machine

section

open Sys2Proof Sys2Proof.Machine

/-- Settles O39: the buffers take their turn, and then the EMPTY ones are assigned what remains. -/
theorem bandCompletionTurnsBuffers : Obligations.BandCompletionTurnsBuffers := by
  refine ⟨?_, ?_⟩
  · intro s d c running active turn
    have turns : turn = (·.promote d) := funext fun x => by cases x <;> rfl
    rw [turns, State.promote_eq running active]
    rfl
  · intro c d k j band planes other sending still turn remains fresh next t
    have idle : (c.turned d).buffer k = .empty := PressChannel.turned_sending sending d
    have turned : (c.turned d).buffer j = (c.buffer j).promote d := PressChannel.turned_other still d
    refine ⟨fun busy => ?_, fun empty => ?_, PressChannel.assignAll_frame (c.turned d)⟩
    · have one : t = (c.turned d).assign k :=
        PressChannel.assignAll_other other (turned ▸ mt BandBuffer.promote_eq_empty.mp busy)
      have kept : t.buffer j = (c.buffer j).promote d := by
        rw [one, PressChannel.buffer_assign_ne other, turned]
      refine ⟨fun ps ready => ?_, fun waits => ?_, fun room => ?_, fun full => ?_⟩
      · rw [kept, ready, BandBuffer.promote_ready turn]
      · rw [kept, BandBuffer.promote_other waits]
      · rw [one, PressChannel.assign_empty idle room]
        exact ⟨((c.turned d).buffer_setBuffer ..).trans (if_pos rfl), rfl⟩
      · rw [one, PressChannel.assign_full (c := c.turned d) full]
        exact ⟨idle, rfl⟩
    · have empties (i : BufferId) : (c.turned d).buffer i = .empty := by
        rcases BufferId.eq_or_eq other i with rfl | rfl
        · exact idle
        · rw [turned, empty]
          rfl
      have full (none : ¬ remains next) : t = c.turned d := PressChannel.assignAll_full none
      have assigned (room : remains next) := PressChannel.assignAll_empty (empties .a) (empties .b) room
      refine ⟨fun none => ?_, fun room => ?_, fun room last => ?_, fun more => ?_⟩
      · rw [full none]
        exact ⟨empties .a, empties .b, rfl⟩
      · by_cases more : remains (next + 1)
        · exact congrArg PressChannel.bufferA ((assigned room).2 more)
        · exact congrArg PressChannel.bufferA ((assigned room).1 more)
      · rw [show t = _ from (assigned room).1 last]
        exact ⟨empties .b, rfl⟩
      · rw [show t = _ from (assigned (PressChannel.Remains.pred (c := c) more)).2 more]
        exact ⟨rfl, rfl⟩

end

/-! # Tokens at the ports (R104, R121, R122, R125, R126, R129 to R131, R138, R141 to R147, R186) -/

namespace Sys2Proof.Machine

variable {s : State} {code : Byte}

theorem exec_blockToken {p : Port} (up : (s.port p).state ≠ .down) (code : Byte) :
    exec (.blockToken p code) s = .next (s.blockToken p code) := by
  show Host.Outcome.next _ = _
  rw [if_neg up]

/-! ## Token codes (R179) -/

theorem Token.ofCode_accept : Token.ofCode 0x01 = some .accept := by decide

theorem Token.ofCode_reject (rejects : code = 0x02 ∨ code = 0x03 ∨ code = 0x04) :
    ∃ t, t ≠ .accept ∧ Token.ofCode code = some t := by
  rcases rejects with rfl | rfl | rfl
  · exact ⟨.rejectCheck, by decide, by decide⟩
  · exact ⟨.rejectOrder, by decide, by decide⟩
  · exact ⟨.rejectFull, by decide, by decide⟩

theorem Token.ofCode_unknown (unknown : code = 0x00 ∨ 0x04 < code) : Token.ofCode code = none := by
  refine List.find?_eq_none.mpr fun t _ same => ?_
  rw [← of_decide_eq_true same] at unknown
  revert unknown
  cases t <;> decide

/-! ## The Press port: which token answers what -/

theorem State.pressToken_late (late : s.pressLate = true) (code : Byte) :
    s.pressToken code = { s with pressLate := false }.sendPress := if_pos late

theorem State.pressToken_unawaited (onTime : s.pressLate = false)
    (still : ∀ d, s.delivery = some d → d.outstanding = none) (code : Byte) : s.pressToken code = s.strayed .press := by
  rw [State.pressToken, if_neg (by simp [onTime])]
  cases running : s.delivery with
  | none => rfl
  | some d =>
    simp only [still d running]
    rfl

section PressAnswers

variable {d : Delivery} {b : BlockRef}

theorem State.pressToken_unknown (onTime : s.pressLate = false) (running : s.delivery = some d)
    (awaited : d.outstanding = some b) (unknown : code = 0x00 ∨ 0x04 < code) : s.pressToken code = s.strayed .press := by
  simp only [State.pressToken, onTime, running, awaited, Token.ofCode_unknown unknown]
  rfl

theorem State.pressToken_accept (onTime : s.pressLate = false) (running : s.delivery = some d)
    (awaited : d.outstanding = some b) : s.pressToken 0x01 = s.acceptPress d b := by
  simp only [State.pressToken, onTime, running, awaited, Token.ofCode_accept]
  rfl

theorem State.pressToken_reject (onTime : s.pressLate = false) (running : s.delivery = some d)
    (awaited : d.outstanding = some b) (up : s.press.state ≠ .down)
    (rejects : code = 0x02 ∨ code = 0x03 ∨ code = 0x04) :
    s.pressToken code = s.pressEnded { d with outstanding := none } .rejected (d.rejectedBand b) := by
  obtain ⟨t, other, named⟩ := Token.ofCode_reject rejects
  have ended : s.pressToken code =
      State.endPress { s with delivery := some { d with outstanding := none } } .rejected (d.rejectedBand b) := by
    simp only [State.pressToken, onTime, running, awaited, named]
    cases t with
    | accept => exact absurd rfl other
    | _ => rfl
  rw [ended, State.endPress_eq rfl (by exact up) (by decide)]
  rfl

end PressAnswers

/-! ## The delivery record after an ACCEPT (R118, R122, R123) -/

section Accepts

variable {d : Delivery} {b : BlockRef}

theorem Delivery.endLead_eq (d : Delivery) (b : BlockRef)
    [Decidable (b.phase = .lead ∧ ∃ n, d.next = some n ∧ n.phase = .page)] : d.endLead b =
      if b.phase = .lead ∧ (∃ n, d.next = some n ∧ n.phase = .page) then { d with phase := .page } else d :=
  if_congr (and_congr_right fun _ => by simp [Option.any_eq_true]) rfl rfl

/-- The end of the lead margin changes the phase alone. -/
theorem Delivery.endLead_frame (d : Delivery) (b : BlockRef) :
    d.endLead b = { d with phase := (d.endLead b).phase } := by
  rw [Delivery.endLead]
  split <;> rfl

theorem Delivery.endsBand_iff (d : Delivery) (b : BlockRef) : d.endsBand b = true ↔ b.phase = .page ∧
    b.plane + 1 = d.shape.planes ∧ (b.line + 1 = d.shape.height ∨ (b.line + 1) % d.shape.bandHeight = 0) := by
  simp [Delivery.endsBand, and_assoc]

theorem Delivery.completeBand_eq (d : Delivery) : d.completeBand = { d with
    firstNotComplete := d.firstNotComplete + 1
    timer := if d.timer = .off then .off else if d.shape.bands ≤ d.firstNotComplete + 1 then .stopped else .running
    phase := if d.shape.bands ≤ d.firstNotComplete + 1 then .trail else d.phase } := by
  rw [Delivery.completeBand]
  by_cases more : d.firstNotComplete + 1 < d.shape.bands
  · simp only [if_pos more, if_neg (Nat.not_le.mpr more)]
  · simp only [if_neg more, if_pos (Nat.not_lt.mp more)]

theorem Delivery.completeBand_endLead {d1 : Delivery} (lead : d.endLead b = d1) : d1.completeBand = { d1 with
    firstNotComplete := d.firstNotComplete + 1
    timer := if d.timer = .off then .off else if d.shape.bands ≤ d.firstNotComplete + 1 then .stopped else .running
    phase := if d.shape.bands ≤ d.firstNotComplete + 1 then .trail else d1.phase } := by
  rw [← lead, Delivery.completeBand_eq, Delivery.endLead_frame]

/-! ## The Press port: what an ACCEPT brings -/

/-- An ending reads of the delivery its page and its outstanding block. -/
theorem State.pressEnded_congr {d' : Delivery} (handle : d'.handle = d.handle)
    (outstanding : d'.outstanding = d.outstanding) (s : State) (e : Ending) (resume : Nat) : s.pressEnded d' e resume = s.pressEnded d e resume := by
  rw [State.pressEnded, State.pressEnded, handle, outstanding]

theorem State.sendPress_idle (idle : s.delivery = none) : s.sendPress = s := by rw [State.sendPress, idle]

theorem State.presentPress_idle (idle : s.pressChannel = none) : s.presentPress = s := by rw [State.presentPress, idle]

/-- The last block of the line order is accepted: the delivery is DONE (R125, R126). -/
theorem State.acceptPress_done {h : Handle} {rest : List Handle} (up : s.press.state ≠ .down) (last : d.next = none)
    (queue : s.queue = h :: rest) (b : BlockRef) : s.acceptPress d b =
      { s.pressEnded { d with outstanding := none } .done d.shape.bands with queue := rest }.dropRefs h 1 := by
  have lead : Delivery.endLead { d with outstanding := none } b = { d with outstanding := none } :=
    if_neg fun ⟨_, page⟩ => by simp [last] at page
  have ended {d' : Delivery} (handle : d'.handle = d.handle) (outstanding : d'.outstanding = none) :
      State.endPress { s with delivery := some d' } .done d.shape.bands =
        { s.pressEnded { d with outstanding := none } .done d.shape.bands with queue := rest }.dropRefs h 1 := by
    rw [State.endPress_done rfl (by exact up) (by exact queue), State.pressEnded_congr (d := { d with outstanding := none }) handle outstanding]
    rfl
  rw [State.acceptPress, lead]
  dsimp only
  rw [if_pos last]
  split
  · exact ended (by rw [Delivery.completeBand_eq]) (by rw [Delivery.completeBand_eq])
  · exact ended rfl rfl

/-- An ACCEPT within a band sends the next block that is there (R120, R121). -/
theorem State.acceptPress_within {d1 : Delivery} (lead : Delivery.endLead { d with outstanding := none } b = d1)
    (more : d.next ≠ none) (inside : d.endsBand b = false) (s : State) :
    s.acceptPress d b = (State.promote { s with delivery := some d1 }).sendPress := by
  have next : d1.next ≠ none := by rwa [← lead, Delivery.endLead_frame]
  have within : ¬ d1.endsBand b = true := by
    rw [← lead, Delivery.endLead_frame]
    exact Bool.eq_false_iff.mp inside
  rw [State.acceptPress, lead]
  dsimp only
  rw [if_neg next, if_neg within]

/-- An ACCEPT of a band's last block completes the band (R100, R122). -/
theorem State.acceptPress_band {d1 : Delivery} {c : PressChannel}
    (lead : Delivery.endLead { d with outstanding := none } b = d1) (more : d.next ≠ none) (ends : d.endsBand b = true)
    (active : s.pressChannel = some c) : s.acceptPress d b =
      (State.handOverDamage { s with
        delivery := some d1.completeBand
        pressChannel := some (c.completeBand d1.completeBand) }).sendPress.presentPress := by
  have next : d1.next ≠ none := by rwa [← lead, Delivery.endLead_frame]
  have last : d1.endsBand b = true := by
    rw [← lead, Delivery.endLead_frame]
    exact ends
  rw [State.acceptPress, lead]
  dsimp only
  rw [if_neg next, if_pos last, State.completeBand]
  dsimp only
  rw [active]
  rfl

/-- The damage is handed over in a band completion that leaves no lower band (R101, R130). -/
theorem State.handOverDamage_ends {c : PressChannel} {n : Nat} (active : s.pressChannel = some c)
    (running : s.delivery = some d) (up : s.press.state ≠ .down) (stop : c.stopBand = some n)
    (gone : (c.bufferA.below n || c.bufferB.below n) = false) :
    s.handOverDamage.sendPress.presentPress = s.pressEnded d .damaged n := by
  have ended : s.handOverDamage = s.pressEnded d .damaged n := by
    rw [State.handOverDamage_eq active stop running up, if_neg (by simpa using gone)]
  rw [ended, State.sendPress_idle rfl, State.presentPress_idle rfl]

/-- Nothing is handed over while no damage was found or a lower band is held (R101). -/
theorem State.handOverDamage_waits {c : PressChannel} (active : s.pressChannel = some c)
    (held : ∀ n, c.stopBand = some n → c.bufferA.below n = true ∨ c.bufferB.below n = true) : s.handOverDamage = s := by
  cases stop : c.stopBand with
  | none => simp only [State.handOverDamage, active, stop]
  | some n =>
    simp only [State.handOverDamage, active, stop]
    exact if_pos (held n stop)

end Accepts

end Sys2Proof.Machine

section

open Sys2Proof Sys2Proof.Machine

/-- Settles O40: which token answers the block, and the three things an ACCEPT can bring. -/
theorem pressTokenAnswersBlock : Obligations.PressTokenAnswersBlock := by
  intro code s up go
  have token : go = .next (s.pressToken code) := exec_blockToken (p := .press) up code
  refine ⟨fun late => ?_, fun onTime still => ?_, fun d b c onTime running awaited active => ?_⟩
  · rw [token, State.pressToken_late late]
  · rw [token, State.pressToken_unawaited onTime still]
  intro p d0 rejected
  refine ⟨fun unknown => ?_, fun rejects => ?_, ?_⟩
  · rw [token, State.pressToken_unknown onTime running awaited unknown]
  · rw [token, State.pressToken_reject onTime running awaited up rejects]
    rfl
  rintro rfl d1 endsBand
  have accepts : go = .next (s.acceptPress d b) := by rw [token, State.pressToken_accept onTime running awaited]
  have lead : d0.endLead b = d1 := d0.endLead_eq b
  have ends_iff : d.endsBand b = true ↔ endsBand := d.endsBand_iff b
  refine ⟨fun done h rest queue => ?_, fun more inside => ?_, ?_⟩
  · rw [accepts, State.acceptPress_done up done queue]
  · rw [accepts, State.acceptPress_within lead more (by simpa using mt ends_iff.mp inside)]
  intro more ends last d2 c2 below
  have completed : d1.completeBand = d2 := Delivery.completeBand_endLead (d := d0) lead
  have completes := State.acceptPress_band lead more (ends_iff.mpr ends) active
  rw [completed] at completes
  refine ⟨fun n stop gone => ?_, fun held => ?_⟩
  · rw [accepts, completes, State.handOverDamage_ends rfl rfl (by exact up) stop gone]
    rfl
  · rw [accepts, completes, State.handOverDamage_waits rfl fun n stop => (Bool.or_eq_true _ _).mp (held n stop)]

end

/-! # Tokens at the Proof port, and the view after them (R104, R138, R141 to R147) -/

namespace Sys2Proof.Machine

variable {s : State} {code : Byte}

/-! ## Which token answers what -/

theorem State.proofToken_late (late : s.proofLate = true) (code : Byte) :
    s.proofToken code = { s with proofLate := false }.sendView := if_pos late

theorem State.proofToken_unawaited (onTime : s.proofLate = false)
    (still : ∀ v, s.view = some v → v.outstanding = none) (code : Byte) : s.proofToken code = s.strayed .proof := by
  rw [State.proofToken, if_neg (by simp [onTime])]
  cases running : s.view with
  | none => rfl
  | some v =>
    simp only [still v running]
    rfl

/-- An ending of a view reads of the state neither the view nor the channel. -/
theorem State.viewEnded_congr (s : State) (view : Option ViewRecord) (channel : Option ProofChannel) (v : ViewRecord)
    (e : Ending) (resume : Nat) :
    ({ s with view := view, proofChannel := channel }).viewEnded v e resume = s.viewEnded v e resume := by
  rw [State.viewEnded, State.viewEnded,
    State.dropRefs_congr (s := s) (u := { s with view := view, proofChannel := channel }) rfl rfl rfl,
    State.dropRefs_congr (s := s) (u := s) rfl rfl rfl]

section Answers

variable {v : ViewRecord} {r : ViewRef}

theorem State.proofToken_unknown (onTime : s.proofLate = false) (running : s.view = some v)
    (awaited : v.outstanding = some r) (unknown : code = 0x00 ∨ 0x04 < code) : s.proofToken code = s.strayed .proof := by
  simp only [State.proofToken, onTime, running, awaited, Token.ofCode_unknown unknown]
  rfl

theorem State.proofToken_accept (onTime : s.proofLate = false) (running : s.view = some v)
    (awaited : v.outstanding = some r) : s.proofToken 0x01 = s.acceptView v r := by
  simp only [State.proofToken, onTime, running, awaited, Token.ofCode_accept]
  rfl

theorem State.proofToken_reject (onTime : s.proofLate = false) (running : s.view = some v)
    (awaited : v.outstanding = some r) (up : s.proof.state ≠ .down)
    (rejects : code = 0x02 ∨ code = 0x03 ∨ code = 0x04) :
    s.proofToken code = s.viewEnded { v with outstanding := none } .rejected (r.line / v.shape.bandHeight) := by
  obtain ⟨t, other, named⟩ := Token.ofCode_reject rejects
  have ended : s.proofToken code = State.endView { s with view := some { v with outstanding := none } } .rejected
      (r.line / v.shape.bandHeight) := by
    simp only [State.proofToken, onTime, running, awaited, named]
    cases t with
    | accept => exact absurd rfl other
    | _ => rfl
  rw [ended, State.endView_eq rfl (by exact up)]
  exact s.viewEnded_congr _ s.proofChannel _ _ _

/-! ## What an ACCEPT brings -/

/-- The view record once its outstanding line was accepted (R138, R141). -/
def ViewRecord.accepted (v : ViewRecord) (r : ViewRef) : ViewRecord :=
  { v with outstanding := none, firstNotSent := if v.endsBand r then v.firstNotSent + 1 else v.firstNotSent }

theorem ViewRecord.endsPlaneBand_iff (v : ViewRecord) (r : ViewRef) : v.endsPlaneBand r = true ↔
    r.band * v.shape.bandHeight + v.shape.bandLines r.band ≤ r.line + v.decimation := decide_eq_true_iff

theorem ViewRecord.endsBand_iff (v : ViewRecord) (r : ViewRef) : v.endsBand r = true ↔
    v.endsPlaneBand r = true ∧ v.planeMask.find? (fun plane => r.plane < plane) = none := by
  rw [ViewRecord.endsBand, Bool.and_eq_true, Option.isNone_iff_eq_none]

theorem ViewRecord.accepted_eq (v : ViewRecord) (r : ViewRef) {ends : Prop} [Decidable ends]
    (iff : v.endsBand r = true ↔ ends) : v.accepted r =
      if ends then { v with outstanding := none, firstNotSent := v.firstNotSent + 1 } else { v with outstanding := none } := by
  rw [ViewRecord.accepted]
  by_cases h : ends
  · rw [if_pos h, if_pos (iff.mpr h)]
  · rw [if_neg h, if_neg (mt iff.mp h)]

/-- The last selected line is accepted: the view is DONE (R142). -/
theorem State.acceptView_done (up : s.proof.state ≠ .down) (done : v.next = none) (r : ViewRef) :
    s.acceptView v r = s.viewEnded (v.accepted r) .done v.endBand := by
  rw [State.acceptView]
  dsimp only
  rw [if_pos done, State.endView_eq rfl (by exact up)]
  exact s.viewEnded_congr ..

/-- An ACCEPT within a plane-band sends its next line (R141). -/
theorem State.acceptView_within (more : v.next ≠ none) (inside : v.endsPlaneBand r = false) (s : State) :
    s.acceptView v r = { s with view := some (v.accepted r) }.sendView.presentProof := by
  rw [State.acceptView]
  dsimp only
  rw [if_neg more, inside]
  rfl

/-- A view whose plane-band is being decoded has nothing to send (R141). -/
theorem State.sendView_decoding {c : ProofChannel} {work : Decoding} (active : s.proofChannel = some c)
    (decoding : c.buffer = .decoding work) : s.sendView = s := by
  have unavailable (v : ViewRecord) (r : ViewRef) : s.viewBlock v r = none := by
    simp only [State.viewBlock, active, decoding]
  rw [State.sendView]
  cases s.view with
  | none => rfl
  | some v =>
    simp only [unavailable]
    split
    · rfl
    · split <;> rfl

/-- The last line of a plane-band is accepted: the channel goes to the next one and asks for it (R104). -/
theorem State.acceptView_planeBand {c : ProofChannel} {x : Nat × Nat} (active : s.proofChannel = some c)
    (more : v.next ≠ none) (ends : v.endsPlaneBand r = true) (next : v.nextPlaneBand c.band c.plane = some x) :
    s.acceptView v r = { s with
      view := some (v.accepted r)
      proofChannel := some
        { c with band := x.1, plane := x.2, buffer := .decoding Decoding.initial } }.presentProof := by
  have advanced : s.proofChannel.map (ProofChannel.advance v) = some
      { c with band := x.1, plane := x.2, buffer := .decoding Decoding.initial } := by
    simp only [active, Option.map_some, ProofChannel.advance, next]
  rw [State.acceptView]
  dsimp only
  rw [if_neg more, if_pos ends, advanced, State.sendView_decoding rfl rfl]
  rfl

end Answers

end Sys2Proof.Machine

section

open Sys2Proof Sys2Proof.Machine

/-- Settles O41: which token answers the line, and where an ACCEPT takes the view and its channel. -/
theorem proofTokenAnswersBlock : Obligations.ProofTokenAnswersBlock := by
  refine fun code s => ⟨fun up => exec_blockToken (p := .compose) up code, fun up => ?_⟩
  intro go
  have token : go = .next (s.proofToken code) := exec_blockToken (p := .proof) up code
  refine ⟨fun late => ?_, fun onTime still => ?_, fun v r c onTime running awaited active => ?_⟩
  · rw [token, State.proofToken_late late]
  · rw [token, State.proofToken_unawaited onTime still]
  intro v0 endsPlaneBand higher v1
  have accepts (accept : code = 0x01) : go = .next (s.acceptView v r) := by
    rw [token, accept, State.proofToken_accept onTime running awaited]
  have ends_iff : v.endsPlaneBand r = true ↔ endsPlaneBand := v.endsPlaneBand_iff r
  have accepted : v.accepted r = v1 := v.accepted_eq r ((v.endsBand_iff r).trans (and_congr_left' ends_iff))
  refine ⟨fun unknown => ?_, fun rejects => ?_, fun accept done => ?_, fun accept more inside => ?_,
    fun accept more ends here => ?_⟩
  · rw [token, State.proofToken_unknown onTime running awaited unknown]
  · rw [token, State.proofToken_reject onTime running awaited up rejects]
  · rw [accepts accept, State.acceptView_done up done, accepted]
  · rw [accepts accept, State.acceptView_within more (by simpa using mt ends_iff.mp inside), accepted]
  · obtain ⟨band, plane⟩ := Prod.mk.inj here
    have next : v.nextPlaneBand c.band c.plane = match higher with
      | some p => some (r.band, p)
      | none => if r.band + 1 < v.endBand then some (r.band + 1, lowestPlane v.planeMask) else none := by
      rw [band, plane]
      rfl
    refine ⟨fun p found => ?_, fun none inside => ?_⟩
    · rw [found] at next
      rw [accepts accept, State.acceptView_planeBand active more (ends_iff.mpr ends) next, accepted, ← band]
    · rw [none, if_pos inside] at next
      rw [accepts accept, State.acceptView_planeBand active more (ends_iff.mpr ends) next, accepted]
      rfl

end

/-! # START (R98, R115 to R117) -/

namespace Sys2Proof.Machine

variable {s : State}

/-- The channel of a delivery that begins inside its page: one or two bands (R98). -/
theorem PressChannel.begin_eq (h : Handle) {p : Shape} {band : Nat} (inside : band < p.bands) :
    PressChannel.begin h p band =
      { handle := h, shape := p, startBand := band, nextBand := min (band + 2) p.bands, stopBand := none
        bufferA := .decoding band 0 Decoding.initial []
        bufferB := if band + 1 < p.bands then .decoding (band + 1) 0 Decoding.initial [] else .empty } := by
  let c : PressChannel :=
    { handle := h, shape := p, startBand := band, nextBand := band, stopBand := none, bufferA := .empty, bufferB := .empty }
  obtain ⟨one, two⟩ := PressChannel.assignAll_empty (c := c) rfl rfl ⟨inside, nofun⟩
  rw [PressChannel.begin]
  by_cases more : band + 1 < p.bands
  · rw [if_pos more, Nat.min_eq_left more]
    exact two ⟨more, nofun⟩
  · rw [if_neg more, show min (band + 2) p.bands = band + 1 by omega]
    exact one fun room => more room.1

/-- The delivery of the head page as it begins, its first send and read still to come (R117). -/
def State.deliveryBegun (s : State) (h : Handle) (band lead trail window : Nat) : State :=
  { s with
    delivering := true
    press := s.press.answered .outbound Cmd.start.code .ok (startPayload h (s.page h).shape)
    delivery := some (Delivery.begin h (s.page h).shape band lead trail window)
    pressChannel := some (PressChannel.begin h (s.page h).shape band) }

theorem State.taken_beginDelivery (s : State) (h : Handle) (band lead trail window : Nat) :
    (s.taken .press .start).beginDelivery h band lead trail window =
      (s.deliveryBegun h band lead trail window).sendPress.presentPress := rfl

/-- The checks of Table 6-4 in order, and the delivery begun. -/
theorem State.startHead_eq {h : Handle} {rest : List Handle} (queue : s.queue = h :: rest) (p : Port)
    (band lead trail window : Nat) : s.startHead p band lead trail window =
      if (s.page h).holdReason ≠ none then s.reply p Cmd.start.code .held []
      else if (s.page h).state ≠ .sealed then s.reply p Cmd.start.code .state []
      else if (s.page h).shape.bands ≤ band ∨ 4095 < lead ∨ 4095 < trail then s.reply p Cmd.start.code .param []
      else s.beginDelivery h band lead trail window := by
  simp only [State.startHead, queue, startRefusal, Option.isSome_iff_ne_none]
  split_ifs <;> rfl

end Sys2Proof.Machine

section

open Sys2Proof Sys2Proof.Machine

/-- Settles O37: the checks one after another, and the delivery's three records written whole. -/
theorem startBeginsDelivery : Obligations.StartBeginsDelivery := by
  intro startBand lead trail window s takes b go
  have started : go = .next ((s.taken .press .start).startHead .press b lead.toNat trail.toNat window.toNat) := by
    show Host.Outcome.next (s.judge .press .start _) = _
    rw [State.judge_takes takes]
  refine ⟨fun none => ?_, ?_⟩
  · have empty : (s.taken .press .start).queue = [] := none
    rw [started, State.startHead, empty]
    exact congrArg _ (State.taken_reply takes.up ..)
  · intro h rest queue r p inLead begun
    rw [started, State.startHead_eq (s := s.taken .press .start) queue]
    simp only [State.page_taken, State.taken_reply takes.up, State.taken_beginDelivery]
    refine congrArg _ (ite_congr rfl (fun _ => rfl) fun _ => ite_congr rfl (fun _ => rfl) fun _ =>
      ite_congr rfl (fun _ => rfl) fun good => ?_)
    have inside : b < p.bands := Nat.not_le.mp fun past => good (.inl past)
    have begins : s.deliveryBegun h b lead.toNat trail.toNat window.toNat = begun := by
      rw [State.deliveryBegun, PressChannel.begin_eq h inside]
      rfl
    rw [begins]

end

/-! # VIEW (R103, R135 to R138) -/

namespace Sys2Proof.Machine

variable {s : State}

/-! ## Its parameters (Table 7-1) -/

theorem depthOf_eq (x : Byte) :
    depthOf x = if x = 0x00 then some .full else if x = 0x01 then some .draft4 else none := by
  by_cases full : x = 0x00
  · rw [full]
    rfl
  by_cases draft : x = 0x01
  · rw [draft]
    rfl
  rw [if_neg full, if_neg draft]
  refine List.find?_eq_none.mpr fun d _ same => ?_
  cases d with
  | full => exact full (of_decide_eq_true same).symm
  | draft4 => exact draft (of_decide_eq_true same).symm

theorem viewFrameGood_iff (q : ViewParams) : viewFrameGood q = true ↔ q.planeMask ≠ 0 ∧
    (q.decimation = 1 ∨ q.decimation = 2 ∨ q.decimation = 4) ∧ (q.depth = 0x00 ∨ q.depth = 0x01) ∧
    q.firstBand.toNat ≤ 2047 ∧ 1 ≤ q.bandCount.toNat ∧ q.bandCount.toNat ≤ 2048 := by
  have depth : (depthOf q.depth).isSome = true ↔ q.depth = 0x00 ∨ q.depth = 0x01 := by
    rw [depthOf_eq]
    split_ifs <;> simp_all
  simp only [viewFrameGood, Bool.and_eq_true, Bool.or_eq_true, bne_iff_ne, beq_iff_eq, decide_eq_true_eq, depth]
  tauto

/-- The checks of Table 7-1 in order. -/
theorem viewRefusal_eq (q : ViewParams) (r : PageRecord) : viewRefusal q r =
    if q.planeMask = 0 then some .param
    else if q.decimation ≠ 1 ∧ q.decimation ≠ 2 ∧ q.decimation ≠ 4 then some .param
    else if q.depth ≠ 0x00 ∧ q.depth ≠ 0x01 then some .param
    else if 2047 < q.firstBand.toNat then some .param
    else if q.bandCount.toNat < 1 ∨ 2048 < q.bandCount.toNat then some .param
    else if r.state = .free then some .noPage
    else if r.state ≠ .sealed ∧ r.state ≠ .damaged ∧ r.state ≠ .torn then some .state
    else if r.releasePending = true then some .state
    else if ∃ j ∈ maskPlanes q.planeMask, r.planes ≤ j then some .param
    else if r.usableEnd ≤ q.firstBand.toNat then some .state
    else none := by
  by_cases good : viewFrameGood q = true
  · obtain ⟨mask, decimation, depth, first, least, most⟩ := (viewFrameGood_iff q).mp good
    rw [if_neg mask, if_neg (by tauto), if_neg (by tauto), if_neg (by omega), if_neg (by omega), viewRefusal, good]
    simp only [List.any_eq_true, decide_eq_true_eq, Bool.not_eq_true', Bool.or_eq_false_iff, decide_eq_false_iff_not, and_assoc]
    rfl
  · rw [viewRefusal, if_pos (by simpa using good)]
    by_cases mask : q.planeMask = 0
    · rw [if_pos mask]
    by_cases decimation : q.decimation ≠ 1 ∧ q.decimation ≠ 2 ∧ q.decimation ≠ 4
    · rw [if_neg mask, if_pos decimation]
    by_cases depth : q.depth ≠ 0x00 ∧ q.depth ≠ 0x01
    · rw [if_neg mask, if_neg decimation, if_pos depth]
    by_cases first : 2047 < q.firstBand.toNat
    · rw [if_neg mask, if_neg decimation, if_neg depth, if_pos first]
    by_cases count : q.bandCount.toNat < 1 ∨ 2048 < q.bandCount.toNat
    · rw [if_neg mask, if_neg decimation, if_neg depth, if_neg first, if_pos count]
    exact absurd ((viewFrameGood_iff q).mpr ⟨mask, by tauto, by tauto, by omega, by omega, by omega⟩) good

/-- VIEW's answer to what its checks found (R137). -/
def State.viewAnswer (s : State) (p : Port) (q : ViewParams) : Option Result → State
  | some x => s.reply p Cmd.view.code x []
  | none => s.beginView (ViewRecord.begin q (s.page q.handle))

theorem State.openView_answer (s : State) (p : Port) (q : ViewParams) :
    s.openView p q = s.viewAnswer p q (viewRefusal q (s.page q.handle)) := by
  rw [State.openView]
  cases viewRefusal q (s.page q.handle) <;> rfl

theorem State.openView_eq (s : State) (p : Port) (q : ViewParams) :
    let r := s.page q.handle
    let refused := fun result => s.reply p Cmd.view.code result []
    s.openView p q =
      if q.planeMask = 0 then refused .param
      else if q.decimation ≠ 1 ∧ q.decimation ≠ 2 ∧ q.decimation ≠ 4 then refused .param
      else if q.depth ≠ 0x00 ∧ q.depth ≠ 0x01 then refused .param
      else if 2047 < q.firstBand.toNat then refused .param
      else if q.bandCount.toNat < 1 ∨ 2048 < q.bandCount.toNat then refused .param
      else if r.state = .free then refused .noPage
      else if r.state ≠ .sealed ∧ r.state ≠ .damaged ∧ r.state ≠ .torn then refused .state
      else if r.releasePending = true then refused .state
      else if ∃ j ∈ maskPlanes q.planeMask, r.planes ≤ j then refused .param
      else if r.usableEnd ≤ q.firstBand.toNat then refused .state
      else s.beginView (ViewRecord.begin q r) := by
  intro r refused
  rw [State.openView_answer, viewRefusal_eq]
  simp only [apply_ite (s.viewAnswer p q)]
  rfl

/-! ## The view as it begins -/

/-- The usable end of a page that can be viewed (R136, Table 7-2). -/
theorem PageRecord.usableEnd_eq {r : PageRecord}
    (readable : ¬(r.state ≠ .sealed ∧ r.state ≠ .damaged ∧ r.state ≠ .torn)) :
    r.usableEnd = match r.state with
      | .sealed => r.shape.bands
      | .damaged => r.firstDamaged.getD 0
      | _ => match r.firstDamaged with
        | none => r.committed / r.planes
        | some n => min (r.committed / r.planes) n := by
  rw [PageRecord.usableEnd]
  cases state : r.state with
  | sealed => rfl
  | damaged => rfl
  | torn => cases r.firstDamaged <;> rfl
  | free => simp [state] at readable
  | filling => simp [state] at readable
  | lost => simp [state] at readable

theorem ViewRecord.begin_eq {q : ViewParams} (depth : ¬(q.depth ≠ 0x00 ∧ q.depth ≠ 0x01)) (r : PageRecord) :
    ViewRecord.begin q r =
      { handle := q.handle, shape := r.shape, planeMask := maskPlanes q.planeMask, firstBand := q.firstBand.toNat
        endBand := min (q.firstBand.toNat + q.bandCount.toNat) r.usableEnd
        decimation := q.decimation.toNat, depth := if q.depth = 0x00 then .full else .draft4
        next := some ⟨q.firstBand.toNat, lowestPlane (maskPlanes q.planeMask), q.firstBand.toNat * r.bandHeight⟩
        outstanding := none, firstNotSent := q.firstBand.toNat } := by
  have found : (depthOf q.depth).getD .full = if q.depth = 0x00 then Depth.full else .draft4 := by
    rw [depthOf_eq]
    by_cases full : q.depth = 0x00
    · rw [if_pos full, if_pos full]
      rfl
    · rw [if_neg full, if_neg full, if_pos (by tauto)]
      rfl
  rw [ViewRecord.begin, found]

/-- The reply's payload shows the decimation and the depth as the frame had them (R137). -/
theorem viewPayload_begin {q : ViewParams} (depth : ¬(q.depth ≠ 0x00 ∧ q.depth ≠ 0x01)) (r : PageRecord) :
    let first := q.firstBand.toNat
    let n := q.decimation.toNat
    viewPayload (ViewRecord.begin q r) =
      [q.handle, BitVec.ofNat 8 r.planes] ++ field16 r.width ++ field16 r.height ++ [BitVec.ofNat 8 r.bandHeight] ++
        field16 first ++ field16 (min (first + q.bandCount.toNat) r.usableEnd - first) ++ [q.decimation, q.depth] ++
        field16 ((r.width + n - 1) / n) := by
  have code : (if q.depth = 0x00 then Depth.full else .draft4).code = q.depth := by
    by_cases full : q.depth = 0x00
    · rw [if_pos full, full]
      rfl
    · have draft : q.depth = 0x01 := by tauto
      rw [draft]
      rfl
  rw [viewPayload, ViewRecord.begin_eq depth]
  dsimp only
  rw [code, BitVec.ofNat_toNat, BitVec.setWidth_eq]
  rfl

/-- A view as it begins, its first read still to come (R137, R138). -/
def State.viewBegun (s : State) (v : ViewRecord) : State :=
  { s.setPage v.handle { s.page v.handle with references := (s.page v.handle).references + 1 } with
    view := some v
    proofChannel := some (ProofChannel.begin v)
    proof := s.proof.answered .outbound Cmd.view.code .ok (viewPayload v) }

theorem State.taken_beginView (s : State) (v : ViewRecord) :
    (s.taken .proof .view).beginView v = (s.viewBegun v).presentProof := by
  have begins : (s.taken .proof .view).beginView v = (s.viewBegun v).sendView.presentProof := rfl
  rw [begins, State.sendView_decoding rfl rfl]

end Sys2Proof.Machine

section

open Sys2Proof Sys2Proof.Machine

/-- Settles O42: the checks one after another; past them the usable end is that of Table 7-2. -/
theorem viewBeginsOrRefuses : Obligations.ViewBeginsOrRefuses := by
  intro q s takes r p refused usable first stop mask n depth begun
  have opened : exec (.view .proof q) s = .next ((s.taken .proof .view).openView .proof q) := by
    show Host.Outcome.next (s.judge .proof .view _) = _
    rw [State.judge_takes takes]
  rw [opened, State.openView_eq]
  simp only [State.page_taken, State.taken_reply takes.up, State.taken_beginView]
  refine congrArg _ (ite_congr rfl (fun _ => rfl) fun _ => ite_congr rfl (fun _ => rfl) fun _ =>
    ite_congr rfl (fun _ => rfl) fun depths => ite_congr rfl (fun _ => rfl) fun _ => ite_congr rfl (fun _ => rfl) fun _ =>
    ite_congr rfl (fun _ => rfl) fun _ => ite_congr rfl (fun _ => rfl) fun readable => ite_congr rfl (fun _ => rfl) fun _ =>
    ite_congr rfl (fun _ => rfl) fun _ => ?_)
  have end_eq : r.usableEnd = usable := PageRecord.usableEnd_eq readable
  have begins : s.viewBegun (ViewRecord.begin q r) = begun := by
    rw [State.viewBegun, viewPayload_begin depths, ViewRecord.begin_eq depths, end_eq]
    rfl
  rw [show (s.page q.handle).usableEnd = usable from end_eq]
  exact ite_congr rfl (fun _ => rfl) fun _ => congrArg State.presentProof begins

end

/-! # The next block on the Press link (R119, R120, R131) -/

namespace Sys2Proof.Machine

/-! ## The samples of a page line -/

section Lines

variable {p : Shape} {line plane : Nat} {x : BandBuffer}

/-- The samples a buffer has of a page line and plane, absent unless it is SENDING the line's band (R119). -/
def BandBuffer.lineSamples (p : Shape) (line plane : Nat) (x : BandBuffer) : Option (List Byte) :=
  match x.sent with
  | some (b, planes) =>
    if b = line / p.bandHeight then
      some (sampleRow p.width (line - line / p.bandHeight * p.bandHeight) (planes.getD plane []))
    else none
  | none => none

theorem PressChannel.pageLine_eq (c : PressChannel) (line plane : Nat) : c.pageLine line plane =
    ((c.buffer .a).lineSamples c.shape line plane).or ((c.buffer .b).lineSamples c.shape line plane) := rfl

theorem BandBuffer.lineSamples_none (other : ∀ planes, x ≠ .sending (line / p.bandHeight) planes) :
    x.lineSamples p line plane = none := by
  cases x with
  | sending b planes =>
    refine if_neg fun same => other planes ?_
    rw [same]
  | _ => rfl

theorem BandBuffer.lineSamples_sending (p : Shape) (line plane : Nat) (planes : List (List Byte)) :
    (BandBuffer.sending (line / p.bandHeight) planes).lineSamples p line plane =
      some (sampleRow p.width (line - line / p.bandHeight * p.bandHeight) (planes.getD plane [])) := if_pos rfl

/-- A buffer that holds another band has no such line. -/
theorem BandBuffer.lineSamples_of_band_ne (other : x.band ≠ some (line / p.bandHeight)) :
    x.lineSamples p line plane = none :=
  BandBuffer.lineSamples_none fun _ sending => other (sending ▸ rfl)

variable {c : PressChannel}

theorem PressChannel.pageLine_none (other : ∀ k planes, c.buffer k ≠ .sending (line / c.shape.bandHeight) planes) :
    c.pageLine line plane = none := by
  rw [PressChannel.pageLine_eq, BandBuffer.lineSamples_none (other .a), BandBuffer.lineSamples_none (other .b),
    Option.or_none]

/-- The line is that of the one buffer that is SENDING its band (R119). -/
theorem PressChannel.pageLine_sending {k : BufferId} {planes : List (List Byte)}
    (sending : c.buffer k = .sending (line / c.shape.bandHeight) planes)
    (only : ∀ j, j ≠ k → (c.buffer j).band ≠ some (line / c.shape.bandHeight)) : c.pageLine line plane =
      some (sampleRow c.shape.width (line - line / c.shape.bandHeight * c.shape.bandHeight)
        (planes.getD plane [])) := by
  rw [← BandBuffer.lineSamples_sending, ← sending, PressChannel.pageLine_eq]
  cases k with
  | a =>
    rw [BandBuffer.lineSamples_of_band_ne (only .b nofun), Option.or_none]
  | b =>
    rw [BandBuffer.lineSamples_of_band_ne (only .a nofun), Option.none_or]

end Lines

/-! ## The send -/

variable {s : State} {d : Delivery} {b : BlockRef}

/-- A margin block is always available (R119, R120). -/
theorem State.pressBlock_margin (margin : b.phase ≠ .page) (s : State) (d : Delivery) : s.pressBlock d b =
    some (.block .margin .full b.plane b.line d.shape.width (List.replicate d.shape.width 0)) := by
  rw [State.pressBlock]
  cases phase : b.phase with
  | page => exact absurd phase margin
  | _ => rfl

theorem State.pressBlock_page {c : PressChannel} (page : b.phase = .page) (active : s.pressChannel = some c)
    (d : Delivery) : s.pressBlock d b =
      (c.pageLine b.line b.plane).map fun xs => .block .page .full b.plane b.line d.shape.width xs := by
  simp only [State.pressBlock, page, active]

/-- Nothing is sent while a block is outstanding or a late token is owed (R120, R131). -/
theorem State.sendPress_waits (running : s.delivery = some d) (waits : d.outstanding ≠ none ∨ s.pressLate = true) :
    s.sendPress = s := by
  rw [← Option.isSome_iff_ne_none] at waits
  simp only [State.sendPress, running, if_pos waits]

/-- Nothing is sent while the next block is not available (R120). -/
theorem State.sendPress_unavailable (running : s.delivery = some d) (next : d.next = some b)
    (unavailable : s.pressBlock d b = none) : s.sendPress = s := by
  simp only [State.sendPress, running, next, unavailable, ite_self]

/-- The next block goes out and becomes outstanding (R120). -/
theorem State.sendPress_sends {f : Frame} (running : s.delivery = some d) (up : s.press.state ≠ .down)
    (answered : d.outstanding = none) (onTime : s.pressLate = false) (next : d.next = some b)
    (block : s.pressBlock d b = some f) : s.sendPress =
      { s.sent .press f with delivery := some { d with outstanding := some b, next := d.after b } } := by
  have free : ¬ (d.outstanding.isSome = true ∨ s.pressLate = true) := by simp [answered, onTime]
  rw [← State.send_eq_sent (p := .press) up]
  simp only [State.sendPress, running, if_neg free, next, block]

end Sys2Proof.Machine

section

open Sys2Proof Sys2Proof.Machine

/-- Settles O31: what the send waits for, and which frame it makes of a margin block and of a page line. -/
theorem pressBlockSentWhenAvailable : Obligations.PressBlockSentWhenAvailable := by
  intro s d c b outbound running active shape next band out
  have up : s.press.state ≠ .down := by simp [outbound]
  refine ⟨State.sendPress_waits running, fun answered onTime => ⟨fun margin => ?_, fun page unavailable => ?_,
    fun page k planes sending only => ?_⟩⟩
  · exact State.sendPress_sends running up answered onTime next (State.pressBlock_margin margin s d)
  · refine State.sendPress_unavailable running next ?_
    rw [State.pressBlock_page page active, PressChannel.pageLine_none (by rwa [shape]), Option.map_none]
  · refine State.sendPress_sends running up answered onTime next ?_
    rw [State.pressBlock_page page active,
      PressChannel.pageLine_sending (by rwa [shape]) (by rwa [shape]), Option.map_some, shape]
    rfl

end

/-! # The line order of a delivery and the view order (R118, R139) -/

namespace Sys2Proof.Machine

/-! ## Runs under a rule for the next block -/

section Runs

variable {α β : Type} {next : α → Option α}

/-- From `start` the rule `next` leads through the blocks of the list and on to `stop`. -/
def Runs (next : α → Option α) (start : Option α) : List α → Option α → Prop
  | [], stop => start = stop
  | b :: l, stop => start = some b ∧ Runs next (next b) l stop

theorem Runs.append {start mid stop : Option α} {l m : List α} (first : Runs next start l mid)
    (second : Runs next mid m stop) : Runs next start (l ++ m) stop := by
  induction l generalizing start with
  | nil => exact (show start = mid from first) ▸ second
  | cons b l ih => exact ⟨first.1, ih first.2⟩

theorem Runs.single {b : α} {start stop : Option α} (here : start = some b) (leads : next b = stop) :
    Runs next start [b] stop := ⟨here, leads⟩

/-- A run to the end of the order is the list of the blocks that follow its start. -/
theorem Runs.followed_eq {start : Option α} {l : List α} (runs : Runs next start l none) {n : Nat}
    (enough : l.length < n) : followed next n start = l := by
  induction l generalizing start n with
  | nil =>
    obtain rfl : start = none := runs
    cases n <;> rfl
  | cons b l ih =>
    obtain ⟨rfl, rest⟩ := runs
    cases n with
    | zero => exact absurd enough (Nat.not_lt_zero _)
    | succ n => exact congrArg (b :: ·) (ih rest (Nat.lt_of_succ_lt_succ enough))

/-- Runs for the numbers below `n`, one after another. -/
theorem Runs.range {f : Nat → List α} {start : Nat → Option α} {n : Nat}
    (steps : ∀ i < n, Runs next (start i) (f i) (start (i + 1))) :
    Runs next (start 0) ((List.range n).flatMap f) (start n) := by
  induction n with
  | zero => rfl
  | succ n ih =>
    rw [List.range_succ, List.flatMap_append, List.flatMap_singleton]
    exact (ih fun i low => steps i (Nat.lt_succ_of_lt low)).append (steps n (Nat.lt_succ_self n))

/-- Runs for the members of a list, one after another; `start` gives where those still to come begin. -/
theorem Runs.flatMap {f : β → List α} {start : List β → Option α} {l : List β}
    (steps : ∀ x t, x :: t <:+ l → Runs next (start (x :: t)) (f x) (start t)) :
    Runs next (start l) (l.flatMap f) (start []) := by
  induction l with
  | nil => rfl
  | cons x t ih =>
    exact (steps x t List.suffix_rfl).append (ih fun y u suffix => steps y u (suffix.trans (List.suffix_cons x t)))

/-- A run through the numbers below `n` that pass a test. -/
theorem Runs.filter {p : Nat → Bool} {g : Nat → α} {start : Nat → Option α} {n : Nat}
    (taken : ∀ i < n, p i = true → start i = some (g i) ∧ next (g i) = start (i + 1))
    (passed : ∀ i < n, p i = false → start i = start (i + 1)) :
    Runs next (start 0) (((List.range n).filter p).map g) (start n) := by
  induction n with
  | zero => rfl
  | succ n ih =>
    have before := ih (fun i low => taken i (Nat.lt_succ_of_lt low)) fun i low => passed i (Nat.lt_succ_of_lt low)
    rw [List.range_succ, List.filter_append, List.map_append]
    cases test : p n with
    | true =>
      obtain ⟨here, leads⟩ := taken n (Nat.lt_succ_self n) test
      rw [List.filter_cons_of_pos test]
      exact before.append (Runs.single here leads)
    | false =>
      rw [List.filter_cons_of_neg (by simp [test]), ← passed n (Nat.lt_succ_self n) test]
      simpa using before

end Runs

/-! ## The line order of a delivery (R118) -/

section Delivery

variable {d : Delivery}

/-- The block after the last plane of a line: the first plane of the line after it (R118). -/
def Delivery.afterLine (d : Delivery) (phase : Phase) (line : Nat) : Option BlockRef :=
  d.after ⟨phase, line, d.shape.planes - 1⟩

/-- The blocks of a line, one for each plane. -/
def Delivery.lineBlocks (d : Delivery) (x : Phase × Nat) : List BlockRef :=
  (List.range d.shape.planes).map fun plane => ⟨x.1, x.2, plane⟩

/-- The planes of a line go out one after another. -/
theorem Delivery.runs_planes (planes : 0 < d.shape.planes) (phase : Phase) (line : Nat) :
    Runs d.after (some ⟨phase, line, 0⟩) (d.lineBlocks (phase, line)) (d.afterLine phase line) := by
  have runs := Runs.range (next := d.after) (n := d.shape.planes) (f := fun plane => [⟨phase, line, plane⟩])
    (start := fun plane => if plane < d.shape.planes then some ⟨phase, line, plane⟩ else d.afterLine phase line)
    fun plane low => Runs.single (if_pos low) ?_
  · rwa [if_pos planes, if_neg (Nat.lt_irrefl _), ← List.map_eq_flatMap] at runs
  · by_cases more : plane + 1 < d.shape.planes
    · exact (if_pos more).trans (if_pos more).symm
    · rw [if_neg more, Delivery.afterLine, show d.shape.planes - 1 = plane by omega]

/-- The lines of a phase go out one after another, each in every plane; `go` gives where they go on. -/
theorem Delivery.runs_lines (planes : 0 < d.shape.planes) {phase : Phase} {line : Nat → Nat}
    {go : Nat → Option BlockRef} {n : Nat} (here : ∀ i < n, go i = some ⟨phase, line i, 0⟩)
    (leads : ∀ i < n, d.afterLine phase (line i) = go (i + 1)) :
    Runs d.after (go 0) (((List.range n).map fun i => (phase, line i)).flatMap d.lineBlocks) (go n) := by
  rw [List.flatMap_map]
  refine Runs.range fun i low => ?_
  rw [here i low, ← leads i low]
  exact d.runs_planes planes phase (line i)

/-- Where the trail margin goes on, absent past its last line (R118). -/
def Delivery.trailFrom (d : Delivery) (line : Nat) : Option BlockRef :=
  if line < d.trail then some ⟨.trail, line, 0⟩ else none

/-- Where the page's lines go on, and past them the trail margin. -/
def Delivery.pageFrom (d : Delivery) (line : Nat) : Option BlockRef :=
  if line < d.shape.height then some ⟨.page, line, 0⟩ else d.trailFrom 0

/-- Where the lead margin goes on, and past it the page. -/
def Delivery.leadFrom (d : Delivery) (line : Nat) : Option BlockRef :=
  if line < d.lead then some ⟨.lead, line, 0⟩ else some ⟨.page, d.startBand * d.shape.bandHeight, 0⟩

theorem Delivery.afterLine_eq (d : Delivery) (phase : Phase) (line : Nat) : d.afterLine phase line =
    match phase with
    | .lead => d.leadFrom (line + 1)
    | .page => d.pageFrom (line + 1)
    | .trail => d.trailFrom (line + 1) := by
  rw [Delivery.afterLine, Delivery.after, if_neg (by dsimp only; omega)]
  cases phase <;> rfl

/-- The lead margin goes out, and the page follows. -/
theorem Delivery.runs_lead (planes : 0 < d.shape.planes) : Runs d.after (d.leadFrom 0)
    (((List.range d.lead).map (Phase.lead, ·)).flatMap d.lineBlocks)
    (some ⟨.page, d.startBand * d.shape.bandHeight, 0⟩) := by
  have runs := Delivery.runs_lines planes (phase := .lead) (line := id) (go := d.leadFrom) (n := d.lead)
    (fun _ low => if_pos low) fun i _ => d.afterLine_eq .lead i
  rwa [show d.leadFrom d.lead = _ from if_neg (Nat.lt_irrefl _)] at runs

/-- The page's lines from `first` on go out, and the trail margin follows. -/
theorem Delivery.runs_page (planes : 0 < d.shape.planes) {first : Nat} (inside : first < d.shape.height) :
    Runs d.after (some ⟨.page, first, 0⟩)
      (((List.range (d.shape.height - first)).map fun i => (Phase.page, first + i)).flatMap d.lineBlocks)
      (d.trailFrom 0) := by
  have runs := Delivery.runs_lines planes (phase := .page) (line := (first + ·))
    (go := fun i => d.pageFrom (first + i)) (n := d.shape.height - first) (fun i low => if_pos (by omega))
    fun i _ => d.afterLine_eq .page (first + i)
  rwa [show d.pageFrom (first + 0) = _ from if_pos inside,
    show d.pageFrom (first + (d.shape.height - first)) = _ from if_neg (by omega)] at runs

/-- The trail margin ends the line order. -/
theorem Delivery.runs_trail (planes : 0 < d.shape.planes) : Runs d.after (d.trailFrom 0)
    (((List.range d.trail).map (Phase.trail, ·)).flatMap d.lineBlocks) none := by
  have runs := Delivery.runs_lines planes (phase := .trail) (line := id) (go := d.trailFrom) (n := d.trail)
    (fun _ low => if_pos low) fun i _ => d.afterLine_eq .trail i
  rwa [show d.trailFrom d.trail = none from if_neg (Nat.lt_irrefl _)] at runs

/-- A delivery begins with its lead margin, which one from a later band has not (R117, R118). -/
theorem Delivery.runs_begin {h : Handle} {p : Shape} {startBand lead trail window : Nat} (planes : 0 < p.planes) :
    let d := Delivery.begin h p startBand lead trail window
    Runs d.after d.next
      (((List.range (if startBand = 0 then lead else 0)).map (Phase.lead, ·)).flatMap d.lineBlocks)
      (some ⟨.page, startBand * p.bandHeight, 0⟩) := by
  intro d
  by_cases first : startBand = 0
  · have begins : d.next = d.leadFrom 0 :=
      (apply_ite some _ _ _).trans (if_congr (and_iff_right first) rfl rfl)
    rw [if_pos first, begins]
    exact Delivery.runs_lead (d := d) planes
  · rw [if_neg first]
    exact congrArg some (if_neg fun inLead => first inLead.1)

end Delivery

/-! ## The view order (R139) -/

section View

variable {v : ViewRecord}

/-- The first selected line of a plane-band. -/
def ViewRecord.firstLine (v : ViewRecord) (x : Nat × Nat) : ViewRef := ⟨x.1, x.2, x.1 * v.shape.bandHeight⟩

theorem ViewRecord.after_ends {r : ViewRef} (v : ViewRecord)
    (ends : r.band * v.shape.bandHeight + v.shape.bandLines r.band ≤ r.line + v.decimation) :
    v.after r = (v.nextPlaneBand r.band r.plane).map v.firstLine := if_pos ((v.endsPlaneBand_iff r).mpr ends)

theorem ViewRecord.after_within {r : ViewRef} (v : ViewRecord)
    (within : ¬ r.band * v.shape.bandHeight + v.shape.bandLines r.band ≤ r.line + v.decimation) :
    v.after r = some { r with line := r.line + v.decimation } := if_neg (mt (v.endsPlaneBand_iff r).mp within)

/-- The multiple of a decimation at a line or next past it, and at the line after. -/
theorem ceilDiv_mul_succ {n : Nat} (decimation : n = 1 ∨ n = 2 ∨ n = 4) (y : Nat) :
    (y % n = 0 → ceilDiv y n * n = y ∧ ceilDiv (y + 1) n * n = y + n) ∧
      (y % n ≠ 0 → ceilDiv (y + 1) n * n = ceilDiv y n * n) ∧ y ≤ ceilDiv y n * n := by
  unfold ceilDiv
  rcases decimation with rfl | rfl | rfl <;> omega

/-- The selected lines of a plane-band, in their order. -/
def ViewRecord.selectedLines (v : ViewRecord) (band plane : Nat) : List ViewRef :=
  ((List.range (v.shape.bandLines band)).filter fun y =>
    (band * v.shape.bandHeight + y) % v.decimation == 0).map fun y => ⟨band, plane, band * v.shape.bandHeight + y⟩

/-- The selected lines of a plane-band from line `y` of the band on, and past them the next plane-band. -/
def ViewRecord.lineFrom (v : ViewRecord) (band plane y : Nat) : Option ViewRef :=
  let line := ceilDiv y v.decimation * v.decimation
  if line < v.shape.bandLines band then some ⟨band, plane, band * v.shape.bandHeight + line⟩
  else (v.nextPlaneBand band plane).map v.firstLine

/-- The selected lines of a plane-band go out one after another. -/
theorem ViewRecord.runs_lines (decimation : v.decimation = 1 ∨ v.decimation = 2 ∨ v.decimation = 4)
    (divides : v.decimation ∣ v.shape.bandHeight) {band : Nat} (lines : 0 < v.shape.bandLines band) (plane : Nat) :
    Runs v.after (some (v.firstLine (band, plane))) (v.selectedLines band plane)
      ((v.nextPlaneBand band plane).map v.firstLine) := by
  have selected (y : Nat) : (band * v.shape.bandHeight + y) % v.decimation = y % v.decimation := by
    obtain ⟨k, height⟩ := divides
    rw [height, Nat.mul_left_comm, Nat.mul_add_mod]
  have runs := Runs.filter (next := v.after) (start := v.lineFrom band plane) (n := v.shape.bandLines band)
    (p := fun y => (band * v.shape.bandHeight + y) % v.decimation == 0)
    (g := fun y => ⟨band, plane, band * v.shape.bandHeight + y⟩) (fun y low taken => ?_) fun y low passed => ?_
  · have begins : v.lineFrom band plane 0 = some (v.firstLine (band, plane)) := by
      have zero : ceilDiv 0 v.decimation * v.decimation = 0 := ((ceilDiv_mul_succ decimation 0).1 (Nat.zero_mod _)).1
      rw [ViewRecord.lineFrom, zero]
      exact if_pos lines
    have ends : v.lineFrom band plane (v.shape.bandLines band) = _ :=
      if_neg (Nat.not_lt.mpr (ceilDiv_mul_succ decimation _).2.2)
    rwa [begins, ends] at runs
  · obtain ⟨here, after⟩ := (ceilDiv_mul_succ decimation y).1 (by simpa [selected] using taken)
    rw [ViewRecord.lineFrom, ViewRecord.lineFrom, here, after]
    refine ⟨if_pos low, ?_⟩
    by_cases last : v.shape.bandLines band ≤ y + v.decimation
    · rw [v.after_ends (by dsimp only; omega), if_neg (Nat.not_lt.mpr last)]
    · rw [v.after_within (by dsimp only; omega), if_pos (Nat.not_le.mp last), Nat.add_assoc]
  · have same := (ceilDiv_mul_succ decimation y).2.1 (by simpa [selected] using passed)
    rw [ViewRecord.lineFrom, ViewRecord.lineFrom, same]

/-- The plane-band after those of the planes before `planes` in a band (R104). -/
def ViewRecord.planeFrom (v : ViewRecord) (band : Nat) : List Nat → Option (Nat × Nat)
  | plane :: _ => some (band, plane)
  | [] => if band + 1 < v.endBand then some (band + 1, lowestPlane v.planeMask) else none

/-- In a rising mask the next plane of the band is the next one listed. -/
theorem ViewRecord.nextPlaneBand_suffix (rising : v.planeMask.Pairwise (· < ·)) {plane : Nat} {planes : List Nat}
    (suffix : plane :: planes <:+ v.planeMask) (band : Nat) :
    v.nextPlaneBand band plane = v.planeFrom band planes := by
  obtain ⟨before, mask⟩ := suffix
  rw [← mask] at rising
  obtain ⟨-, later, earlier⟩ := List.pairwise_append.mp rising
  have none_before : before.find? (plane < ·) = none :=
    List.find?_eq_none.mpr fun x here => by simpa using (earlier x here plane List.mem_cons_self).le
  have found : v.planeMask.find? (plane < ·) = planes.head? := by
    rw [← mask, List.find?_append, none_before, Option.none_or, List.find?_cons_of_neg (by simp)]
    cases planes with
    | nil => rfl
    | cons x t => exact List.find?_cons_of_pos (by simpa using (List.pairwise_cons.mp later).1 x List.mem_cons_self)
  rw [ViewRecord.nextPlaneBand, found]
  cases planes <;> rfl

/-- The planes of a band go out one after another, and the next band follows (R104, R139). -/
theorem ViewRecord.runs_planes (rising : v.planeMask.Pairwise (· < ·)) (planes : v.planeMask ≠ [])
    (decimation : v.decimation = 1 ∨ v.decimation = 2 ∨ v.decimation = 4)
    (divides : v.decimation ∣ v.shape.bandHeight) {band : Nat} (lines : 0 < v.shape.bandLines band) :
    Runs v.after (some (v.firstLine (band, lowestPlane v.planeMask)))
      (v.planeMask.flatMap (v.selectedLines band)) ((v.planeFrom band []).map v.firstLine) := by
  have lowest : v.planeFrom band v.planeMask = some (band, lowestPlane v.planeMask) := by
    cases mask : v.planeMask with
    | nil => exact absurd mask planes
    | cons => rfl
  have runs := Runs.flatMap (next := v.after) (start := fun l => (v.planeFrom band l).map v.firstLine)
    fun plane rest suffix => v.nextPlaneBand_suffix rising suffix band ▸ v.runs_lines decimation divides lines plane
  rwa [lowest] at runs

/-- The bands of a view go out one after another, and the view order ends with them (R139). -/
theorem ViewRecord.runs_bands (rising : v.planeMask.Pairwise (· < ·)) (planes : v.planeMask ≠ [])
    (decimation : v.decimation = 1 ∨ v.decimation = 2 ∨ v.decimation = 4)
    (divides : v.decimation ∣ v.shape.bandHeight) (range : v.firstBand < v.endBand)
    (lines : ∀ band < v.endBand, 0 < v.shape.bandLines band) :
    Runs v.after (some (v.firstLine (v.firstBand, lowestPlane v.planeMask)))
      ((List.range (v.endBand - v.firstBand)).flatMap fun i =>
        v.planeMask.flatMap (v.selectedLines (v.firstBand + i))) none := by
  have runs := Runs.range (next := v.after) (n := v.endBand - v.firstBand)
    (f := fun i => v.planeMask.flatMap (v.selectedLines (v.firstBand + i)))
    (start := fun i => if v.firstBand + i < v.endBand then
      some (v.firstLine (v.firstBand + i, lowestPlane v.planeMask)) else none)
    fun i low => ?_
  · rwa [if_pos (by omega), if_neg (by omega)] at runs
  · have inside : v.firstBand + i < v.endBand := by omega
    have band := v.runs_planes rising planes decimation divides (lines _ inside)
    rw [ViewRecord.planeFrom, apply_ite (Option.map v.firstLine)] at band
    rwa [if_pos inside]

end View

end Sys2Proof.Machine

section

open Sys2Proof Sys2Proof.Machine

/-- Settles O33: the runs of the margins and of the page's lines joined, and those of the bands of a view. -/
theorem blocksFollowInOrder : Obligations.BlocksFollowInOrder := by
  refine ⟨fun h p startBand lead trail window planes inside => ?_,
    fun v rising planes decimation height range bands page => ?_⟩
  · intro d leadLines pageLines lines count
    have runs : Runs d.after d.next (lines.flatMap d.lineBlocks) none := by
      rw [List.flatMap_append, List.flatMap_append]
      exact ((Delivery.runs_begin planes).append (Delivery.runs_page (d := d) planes inside)).append
        (Delivery.runs_trail (d := d) planes)
    have length : (lines.flatMap d.lineBlocks).length = count := by
      have lineCount : lines.length = leadLines + pageLines + trail := by simp [lines, Nat.add_assoc]
      simp only [List.length_flatMap, Delivery.lineBlocks, List.length_map, List.length_range, List.map_const',
        List.sum_replicate, lineCount, smul_eq_mul]
      exact Nat.mul_comm ..
    rw [runs.followed_eq (by rw [length]; exact Nat.lt_succ_self count)]
    exact ⟨rfl, length⟩
  · intro first order
    have divides : v.decimation ∣ v.shape.bandHeight := by
      rcases height with high | high <;> rcases decimation with n | n | n <;> rw [high, n] <;> decide
    have high : 0 < v.shape.bandHeight := by omega
    have runs := v.runs_bands rising planes decimation divides range fun band low =>
      (Shape.bandLines_bounds high page (Nat.lt_of_lt_of_le low bands)).1
    exact runs.followed_eq (Nat.lt_succ_self _)

end

/-! # The print queue (R109, R111 to R114) -/

namespace Sys2Proof.Machine

variable {s : State}

/-- The reply of a taken command, after what its rule did away from the port. -/
theorem State.reply_of_port {t : State} {p : Port} {c : Cmd} (up : (s.port p).state ≠ .down)
    (port : t.port p = (s.taken p c).port p) (x : Result) (l : List Byte) : t.reply p c.code x l =
      t.setPort p ((s.port p).answered (s.port p).state c.code x l) := by
  rw [State.taken, State.port_setPort] at port
  rw [State.reply_eq, port, PortRec.send_eq _ _ (by exact up)]
  rfl

/-! ## ENQUEUE (Table 6-2) -/

/-- The queue and the directory once an ENQUEUE's copies have joined the tail (R111). -/
def State.appendCopies (s : State) (h : Handle) (copies : Nat) : State :=
  { s.addRefs h copies with queue := s.queue ++ List.replicate copies h }

/-- The checks of Table 6-2 in order, and the copies appended. -/
theorem State.enqueuePage_eq (s : State) (p : Port) (h : Handle) (copies : Nat) : s.enqueuePage p h copies =
    if copies < 1 ∨ 8 < copies then s.reply p Cmd.enqueue.code .param []
    else if (s.page h).state = .free then s.reply p Cmd.enqueue.code .noPage []
    else if (s.page h).state ≠ .sealed then s.reply p Cmd.enqueue.code .state []
    else if (s.page h).releasePending = true then s.reply p Cmd.enqueue.code .state []
    else if (s.page h).holdReason ≠ none then s.reply p Cmd.enqueue.code .held []
    else if 64 < s.queue.length + copies then s.reply p Cmd.enqueue.code .queueFull []
    else (s.appendCopies h copies).reply p Cmd.enqueue.code .ok [BitVec.ofNat 8 (s.queue.length + copies)] := by
  rw [State.enqueuePage, enqueueRefusal]
  simp only [Option.isSome_iff_ne_none]
  split_ifs <;> rfl

/-! ## REBIND (R112) -/

/-- The checks on the new page in order, and the entries moved. -/
theorem State.rebindPages_eq (s : State) (p : Port) (old new : Handle) : s.rebindPages p old new =
    if (s.page new).state = .free then s.reply p Cmd.rebind.code .noPage []
    else if (s.page new).state ≠ .sealed then s.reply p Cmd.rebind.code .state []
    else if (s.page new).releasePending = true then s.reply p Cmd.rebind.code .state []
    else if (s.page new).holdReason ≠ none then s.reply p Cmd.rebind.code .held []
    else (({ s with queue := s.reboundQueue old new }.addRefs new (s.rebindCount old new)).dropRefs old
      (s.rebindCount old new)).reply p Cmd.rebind.code .ok [BitVec.ofNat 8 (s.rebindCount old new)] := by
  rw [State.rebindPages, rebindRefusal]
  simp only [Option.isSome_iff_ne_none]
  split_ifs <;> rfl

/-- The entries a REBIND spares: the head while it carries the delivering mark. -/
def State.sparedEntries (s : State) : Nat := if s.delivering then 1 else 0

theorem State.rebindable_eq (s : State) : s.rebindable = s.queue.drop s.sparedEntries := by
  rw [State.rebindable, State.sparedEntries]
  split <;> rfl

theorem State.rebindCount_eq (s : State) (old new : Handle) : s.rebindCount old new =
    if old = new then 0 else (s.queue.drop s.sparedEntries).count old := by
  rw [State.rebindCount, State.rebindable_eq]

theorem State.reboundQueue_eq (s : State) (old new : Handle) : s.reboundQueue old new =
    s.queue.take s.sparedEntries ++ (s.queue.drop s.sparedEntries).map fun h => if h = old then new else h := by
  rw [State.reboundQueue, State.sparedEntries]
  split <;> rfl

/-- References end in the directory alone, whatever a port holds. -/
theorem State.dropRefs_setPort (s : State) (p : Port) (r : PortRec) (h : Handle) (n : Nat) :
    (s.setPort p r).dropRefs h n = (s.dropRefs h n).setPort p r := by
  rw [State.dropRefs_congr (s := s) (u := s.setPort p r) (by simp) (by simp) (by simp),
    State.dropRefs_congr (s := s) (u := s) rfl rfl rfl]
  cases p <;> rfl

/-- The reply of a taken command whose rule ends references. -/
theorem State.reply_dropRefs {p : Port} {c : Cmd} (up : (s.port p).state ≠ .down) (t : State) (h : Handle) (n : Nat)
    (x : Result) (l : List Byte) : ((t.setPort p ((s.taken p c).port p)).dropRefs h n).reply p c.code x l =
      (t.dropRefs h n).setPort p ((s.port p).answered (s.port p).state c.code x l) := by
  rw [State.dropRefs_setPort, State.reply_of_port up (State.port_setPort ..), State.setPort_setPort]

end Sys2Proof.Machine

section

open Sys2Proof Sys2Proof.Machine

/-- Settles O34: the checks one after another, then the append, which leaves the port to the reply. -/
theorem enqueueAppendsCopies : Obligations.EnqueueAppendsCopies := by
  intro h copies s takes r n
  show Host.Outcome.next (s.judge .compose .enqueue (·.enqueuePage .compose h n)) = _
  rw [State.judge_takes takes, State.enqueuePage_eq]
  have appends := State.reply_of_port (t := (s.taken .compose .enqueue).appendCopies h n) takes.up rfl
  simp only [State.page_taken, State.taken_reply takes.up, appends]
  rfl

/-- Settles O35: the checks one after another, then the entries and their references move. -/
theorem rebindMovesEntries : Obligations.RebindMovesEntries := by
  intro old new s takes r spared n moved
  have count : (s.taken .compose .rebind).rebindCount old new = n := s.rebindCount_eq old new
  have queue : (s.taken .compose .rebind).reboundQueue old new =
      s.queue.take spared ++ (s.queue.drop spared).map fun h => if h = old then new else h := s.reboundQueue_eq old new
  have moves : { s.taken .compose .rebind with
      queue := (s.taken .compose .rebind).reboundQueue old new }.addRefs new n =
      moved.setPort .compose ((s.taken .compose .rebind).port .compose) := by
    rw [queue]
    rfl
  show Host.Outcome.next (s.judge .compose .rebind (·.rebindPages .compose old new)) = _
  rw [State.judge_takes takes, State.rebindPages_eq, count, moves]
  simp only [State.page_taken, State.taken_reply takes.up, State.reply_dropRefs takes.up]
  rfl

/-- Settles O36: SKIP is judged on the port, then on the queue; PEEK_QUEUE only reads. -/
theorem skipAndPeekQueue : Obligations.SkipAndPeekQueue := by
  refine ⟨fun s sending idle => ?_, fun s takes => ⟨fun empty => ?_, fun h rest queue => ?_⟩,
    fun p s takes => ?_⟩
  · have up : s.press.state ≠ .down := by simp [sending]
    have refused : Cmd.skip.allowed .press s.press.state = false := by rw [sending]; decide
    show Host.Outcome.next (s.judge .press .skip (·.skipHead .press)) = _
    rcases s.judge_cases .press .skip (·.skipHead .press) with
      ⟨down, -⟩ | ⟨-, busy, -⟩ | ⟨-, -, -, illegal⟩ | ⟨takes, -⟩
    · exact absurd down up
    · exact absurd idle busy
    · rw [illegal]
    · exact absurd (takes.2.2.symm.trans refused) (by decide)
  · have noEntry : (s.taken .press .skip).queue = [] := empty
    show Host.Outcome.next (s.judge .press .skip (·.skipHead .press)) = _
    rw [State.judge_takes takes, State.skipHead, noEntry]
    exact congrArg _ (State.taken_reply takes.up ..)
  · have entries : (s.taken .press .skip).queue = h :: rest := queue
    have removed : (s.taken .press .skip).removeHead =
        ({ s with queue := rest }.setPort .press ((s.taken .press .skip).port .press)).dropRefs h 1 :=
      State.removeHead_cons entries
    show Host.Outcome.next (s.judge .press .skip (·.skipHead .press)) = _
    rw [State.judge_takes takes, State.skipHead, entries]
    dsimp only
    rw [removed, State.reply_dropRefs takes.up]
    rfl
  · show Host.Outcome.next (s.judge p .peekQueue (·.peekQueue p)) = _
    rw [State.judge_takes takes, State.peekQueue, State.taken_reply takes.up]
    cases p <;> rfl

end

/-! # STOP and the band window (R123, R125, R127, R128, R142, R144) -/

namespace Sys2Proof.Machine

variable {s : State}

theorem State.reply_idle {p : Port} (idle : (s.port p).state = .idle) (c : Byte) (x : Result) (l : List Byte) :
    s.reply p c x l = s.setPort p { s.port p with transmit := (s.port p).transmit ++ [.reply c x .idle l] } := by
  rw [State.reply_eq, idle, PortRec.send_eq _ _ (by simp [idle])]

/-- STOP at the Press port: the end notice, the ending, then the reply (R127). -/
theorem State.stopDelivery_press {d : Delivery} (running : s.delivery = some d) (up : s.press.state ≠ .down) :
    s.stopDelivery .press =
      (s.pressEnded d .stopped d.firstNotComplete).reply .press Cmd.stop.code .ok [] := by
  rw [← State.endPress_eq running up (by decide)]
  simp only [State.stopDelivery, running]

/-- STOP at the Proof port: the end notice, the ending, then the reply (R144). -/
theorem State.stopDelivery_proof {v : ViewRecord} (running : s.view = some v) (up : s.proof.state ≠ .down) :
    s.stopDelivery .proof = (s.viewEnded v .stopped v.firstNotSent).reply .proof Cmd.stop.code .ok [] := by
  rw [← State.endView_eq running up]
  simp only [State.stopDelivery, running]

/-- An ending of a view and the command outstanding at its port do not meddle. -/
theorem State.viewEnded_taken (s : State) (c : Cmd) (v : ViewRecord) (e : Ending) (resume : Nat) :
    (s.taken .proof c).viewEnded v e resume = (s.viewEnded v e resume).taken .proof c := by
  rw [State.viewEnded, State.taken, State.dropRefs_setPort]
  rfl

end Sys2Proof.Machine

section

open Sys2Proof Sys2Proof.Machine

/-- Settles O38: each ending is the ports' own, and STOP's reply goes out behind the end notice. -/
theorem stopAndExpiryEndDelivery : Obligations.StopAndExpiryEndDelivery := by
  refine ⟨fun d s takes running => ?_, fun v s takes running => ?_, fun d s outbound running => ?_⟩
  · have taken : (s.taken .press .stop).delivery = some d := running
    show Host.Outcome.next (s.judge .press .stop (·.stopDelivery .press)) = _
    rw [State.judge_takes takes, State.stopDelivery_press taken (by exact takes.up), State.reply_idle rfl]
    rfl
  · have taken : (s.taken .proof .stop).view = some v := running
    show Host.Outcome.next (s.judge .proof .stop (·.stopDelivery .proof)) = _
    rw [State.judge_takes takes, State.stopDelivery_proof taken (by exact takes.up), State.viewEnded_taken,
      State.reply_idle rfl]
    rfl
  · have up : s.press.state ≠ .down := by simp [outbound]
    rw [← State.endPress_eq running up (by decide)]
    show Host.Outcome.next _ = _
    rw [running]

end

/-! # The next block of a view (R140, R141) -/

namespace Sys2Proof.Machine

/-! ## The selected columns (R140) -/

/-- The multiples of `n` below `k`, in order. -/
theorem range_filter_mod {n : Nat} (positive : 0 < n) (k : Nat) :
    ((List.range k).filter fun i => i % n == 0) = (List.range (ceilDiv k n)).map (· * n) := by
  refine List.Pairwise.eq_of_mem_iff (r := (· < ·)) (List.pairwise_lt_range.filter _) ?_ fun i => ?_
  · exact List.pairwise_map.mpr (List.pairwise_lt_range.imp (Nat.mul_lt_mul_of_pos_right · positive))
  · have below (j : Nat) : j < ceilDiv k n ↔ j * n < k := by
      rw [ceilDiv, Nat.lt_iff_add_one_le, Nat.le_div_iff_mul_le positive, Nat.succ_mul]
      omega
    simp only [List.mem_filter, List.mem_map, List.mem_range, beq_iff_eq, below]
    constructor
    · rintro ⟨low, multiple⟩
      have column := Nat.div_mul_cancel (Nat.dvd_of_mod_eq_zero multiple)
      exact ⟨i / n, by rwa [column], column⟩
    · rintro ⟨j, low, rfl⟩
      exact ⟨low, Nat.mul_mod_left j n⟩

/-- Decimation keeps the samples whose column is a multiple of the decimation. -/
theorem decimate_eq {n : Nat} (positive : 0 < n) (line : List Byte) :
    decimate n line = (line.zipIdx.filter fun x => x.2 % n == 0).map (·.1) := by
  have columns : line.zipIdx = (List.range line.length).map fun i => (line.getD i 0, i) :=
    List.ext_getElem (by simp) fun i low _ => by
      have inside : i < line.length := by rwa [List.length_zipIdx] at low
      simp [inside]
  calc decimate n line
      = ((List.range (ceilDiv line.length n)).map (· * n)).map fun i => line.getD i 0 := by
        rw [List.map_map]; rfl
    _ = ((List.range line.length).filter fun i => i % n == 0).map fun i => line.getD i 0 := by
        rw [range_filter_mod positive]
    _ = (line.zipIdx.filter fun x => x.2 % n == 0).map (·.1) := by
        rw [columns, List.filter_map, List.map_map]; rfl

/-! ## DRAFT4 data (R140) -/

/-- A byte of the top four bits of two samples. -/
def draftByte (x y : Byte) : Byte := BitVec.ofNat 8 (x.toNat / 16 * 16 + y.toNat / 16)

theorem draftByte_toNat (x y : Byte) : (draftByte x y).toNat = x.toNat / 16 * 16 + y.toNat / 16 := by
  rw [draftByte, BitVec.toNat_ofNat]
  omega

theorem draftByte_high (x y : Byte) : (draftByte x y).toNat / 16 = x.toNat / 16 := by
  rw [draftByte_toNat]
  omega

theorem draftByte_low (x y : Byte) : (draftByte x y).toNat % 16 = y.toNat / 16 := by
  rw [draftByte_toNat]
  omega

theorem packDraft4_one (x : Byte) : packDraft4 [x] = [draftByte x 0] := by simp [packDraft4, draftByte]

theorem packDraft4_two (x y : Byte) (xs : List Byte) : packDraft4 (x :: y :: xs) = draftByte x y :: packDraft4 xs := rfl

theorem length_packDraft4 (xs : List Byte) : (packDraft4 xs).length = (xs.length + 1) / 2 := by
  induction xs using packDraft4.induct with
  | case1 => rfl
  | case2 x => rw [packDraft4_one, List.length_singleton, List.length_singleton]
  | case3 x y t ih =>
    simp only [packDraft4_two, List.length_cons, ih]
    omega

/-- Byte `j` holds samples `2 * j` and `2 * j + 1`, zeros for the second past the end. -/
theorem packDraft4_byte (xs : List Byte) (j : Nat) :
    (packDraft4 xs)[j]? = xs[2 * j]?.map fun x => draftByte x (xs.getD (2 * j + 1) 0) := by
  induction xs using packDraft4.induct generalizing j with
  | case1 => rfl
  | case2 x =>
    rw [packDraft4_one]
    cases j <;> rfl
  | case3 x y t ih =>
    cases j with
    | zero => rfl
    | succ j => exact ih j

/-- Sample `i` is in byte `i / 2`, an even one in the high half. -/
theorem packDraft4_nibble {xs : List Byte} {i : Nat} {x : Byte} (sample : xs[i]? = some x) :
    ∃ b : Byte, (packDraft4 xs)[i / 2]? = some b ∧
      x.toNat / 16 = if i % 2 = 0 then b.toNat / 16 else b.toNat % 16 := by
  rw [packDraft4_byte]
  by_cases even : i % 2 = 0
  · have place : 2 * (i / 2) = i := by omega
    rw [place, sample]
    exact ⟨_, rfl, by rw [if_pos even, draftByte_high]⟩
  · have place : 2 * (i / 2) + 1 = i := by omega
    obtain ⟨low, -⟩ := List.getElem?_eq_some_iff.mp sample
    rw [place, List.getElem?_eq_getElem (show 2 * (i / 2) < xs.length by omega)]
    exact ⟨_, rfl, by rw [if_neg even, draftByte_low, List.getD_eq_getElem?_getD, sample, Option.getD_some]⟩

/-- An odd last sample has zeros beside it. -/
theorem packDraft4_odd {xs : List Byte} (odd : xs.length % 2 = 1) :
    ∃ b : Byte, (packDraft4 xs).getLast? = some b ∧ b.toNat % 16 = 0 := by
  have last : (packDraft4 xs).length - 1 = xs.length / 2 := by
    rw [length_packDraft4]
    omega
  rw [List.getLast?_eq_getElem?, last, packDraft4_byte,
    List.getElem?_eq_getElem (show 2 * (xs.length / 2) < xs.length by omega),
    List.getD_eq_default _ _ (show xs.length ≤ 2 * (xs.length / 2) + 1 by omega)]
  exact ⟨_, rfl, draftByte_low ..⟩

/-! ## The send (R141) -/

variable {s : State} {v : ViewRecord} {r : ViewRef} {c : ProofChannel}

/-- A line is available only in a SENDING buffer of its own plane-band. -/
theorem State.viewBlock_none (active : s.proofChannel = some c)
    (unavailable : (∀ xs, c.buffer ≠ .sending xs) ∨ (c.band, c.plane) ≠ (r.band, r.plane)) :
    s.viewBlock v r = none := by
  simp only [State.viewBlock, active]
  cases buffer : c.buffer with
  | sending xs =>
    have other := unavailable.resolve_left fun empty => empty xs buffer
    exact if_neg fun ⟨band, plane⟩ => other (by rw [band, plane])
  | _ => rfl

theorem State.viewBlock_sending {xs : List Byte} (active : s.proofChannel = some c) (sending : c.buffer = .sending xs)
    (planeBand : (c.band, c.plane) = (r.band, r.plane)) : s.viewBlock v r =
      some (.block .page v.depth r.plane r.line (viewSamples v.shape.width v.decimation)
        (depthData v.depth (decimate v.decimation (bufferLine v.shape r.band r.line xs)))) := by
  simp only [State.viewBlock, active, sending]
  exact if_pos (Prod.mk.inj planeBand)

/-- Nothing is sent while a block is outstanding or a late token is owed. -/
theorem State.sendView_waits (running : s.view = some v) (waits : v.outstanding ≠ none ∨ s.proofLate = true) :
    s.sendView = s := by
  rw [← Option.isSome_iff_ne_none] at waits
  simp only [State.sendView, running, if_pos waits]

/-- Nothing is sent while the next line is not available. -/
theorem State.sendView_unavailable (running : s.view = some v) (next : v.next = some r)
    (unavailable : s.viewBlock v r = none) : s.sendView = s := by
  simp only [State.sendView, running, next, unavailable, ite_self]

/-- The next line goes out and becomes outstanding. -/
theorem State.sendView_sends {f : Frame} (running : s.view = some v) (up : s.proof.state ≠ .down)
    (answered : v.outstanding = none) (onTime : s.proofLate = false) (next : v.next = some r)
    (block : s.viewBlock v r = some f) : s.sendView =
      { s.sent .proof f with view := some { v with outstanding := some r, next := v.after r } } := by
  have free : ¬ (v.outstanding.isSome = true ∨ s.proofLate = true) := by simp [answered, onTime]
  rw [← State.send_eq_sent (p := .proof) up]
  simp only [State.sendView, running, if_neg free, next, block]

end Sys2Proof.Machine

section

open Sys2Proof Sys2Proof.Machine

/-- Settles O32: what the send waits for and the frame it makes, then the columns and the nibbles of its data. -/
theorem viewBlockSentWhenAvailable : Obligations.ViewBlockSentWhenAvailable := by
  refine ⟨fun s v c r outbound running active next => ⟨fun waits => ?_,
    fun xs sending planeBand answered onTime => ?_⟩, fun n line positive => decimate_eq positive line, fun xs =>
    ⟨rfl, length_packDraft4 xs, fun i x => packDraft4_nibble, packDraft4_odd⟩⟩
  · rcases or_assoc.mpr waits with busy | unavailable
    · exact State.sendView_waits running busy
    · exact State.sendView_unavailable running next (State.viewBlock_none active unavailable)
  · have up : s.proof.state ≠ .down := by simp [outbound]
    exact State.sendView_sends running up answered onTime next (State.viewBlock_sending active sending planeBand)

end

/-! # The next grant, readings of the sensor, and rest and wake (R152 to R167, R171, R189, R190, R193) -/

namespace Sys2Proof.Machine

variable {s : State} {c : Scheduler}

/-! ## The first eligible candidate (R152) -/

/-- A member that satisfies `f`, with no earlier one that does, is the one found. -/
theorem find?_of_takeWhile {α : Type} [DecidableEq α] {f : α → Bool} {k : α} {xs : List α} (member : k ∈ xs)
    (holds : f k = true) (earlier : ∀ j ∈ xs.takeWhile (· ≠ k), f j = false) : xs.find? f = some k := by
  induction xs with
  | nil => simp at member
  | cons x xs ih =>
    by_cases here : x = k
    · rw [here, List.find?_cons_of_pos holds]
    · rw [List.takeWhile_cons_of_pos (by simpa using here), List.forall_mem_cons] at earlier
      have later : k ∈ xs := (List.mem_cons.mp member).resolve_left (Ne.symm here)
      rw [List.find?_cons_of_neg (by simp [earlier.1]), ih later earlier.2]

/-- A free store that is not in self-retention grants the first eligible candidate, if there is one. -/
theorem Scheduler.grantNext_first (free : c.grant = none) (awake : c.selfRetention = false) (t : Thermal) :
    c.grantNext t = (grantOrder.find? (c.eligible t)).elim c c.granted := by
  rcases c.grantNext_cases t with ⟨same, stays⟩ | ⟨-, -, k, member, eligible, earlier, granted⟩
  · have noCandidate : ∀ k ∈ grantOrder, c.eligible t k = false :=
      stays.resolve_left (by simp [free, awake])
    rw [same, List.find?_eq_none.mpr fun k member => by simp [noCandidate k member]]
    rfl
  · rw [granted, find?_of_takeWhile member eligible earlier]
    rfl

theorem Scheduler.expire_selfRetention (c : Scheduler) (t : Thermal) :
    (c.expire t).selfRetention = c.selfRetention := by
  unfold Scheduler.expire
  split <;> rfl

/-! ## The events of the refresh (R153, R155) -/

theorem exec_refreshCompletion (granted : s.sched.grant = some .refresh) :
    exec .refreshCompletion s =
      .next (State.checkDrain { s with sched := s.sched.release.grantNext s.thermal }) := by
  show Host.Outcome.next _ = _
  rw [granted]
  rfl

theorem exec_refreshTimerExpiry (running : s.sched.timerRunning = true) :
    exec .refreshTimerExpiry s =
      .next (State.checkDrain { s with sched := (s.sched.expire s.thermal).grantNext s.thermal }) := by
  show Host.Outcome.next _ = _
  rw [if_pos running]
  rfl

/-! ## A reading of the sensor (R164) -/

/-- `n` is the sensor's value rounded to the nearest whole degree, halves up. -/
theorem readingOf_eq {v : SensorValue} {n : Int} (positive : 0 < v.denominator)
    (low : 2 * n * v.denominator ≤ 2 * v.numerator + v.denominator)
    (high : 2 * v.numerator + v.denominator < 2 * (n + 1) * v.denominator) :
    readingOf v = max (-40) (min 150 n) := by
  have scale : 0 < 2 * (v.denominator : Int) := by omega
  have rounded : (2 * v.numerator + v.denominator) / (2 * v.denominator) = n :=
    le_antisymm (Int.lt_add_one_iff.mp ((Int.ediv_lt_iff_lt_mul scale).mpr (by linarith only [high])))
      ((Int.le_ediv_iff_mul_le scale).mpr (by linarith only [low]))
  simp only [readingOf, rounded]
  omega

/-! ## The class after a reading (R165, R166) -/

theorem classOf_cases (x : Int) : (x < 45 ∧ classOf x = .cool) ∨ (45 ≤ x ∧ x < 85 ∧ classOf x = .normal) ∨
    (85 ≤ x ∧ x < 105 ∧ classOf x = .warm) ∨ (105 ≤ x ∧ classOf x = .hot) := by
  unfold classOf
  split_ifs <;> simp <;> omega

theorem nextClass_first (now : Thermal) (x : Int) : nextClass true now x = classOf x := rfl

/-- A reading falls in class `k` or a higher one exactly from the lower bound of `k` on. -/
theorem Thermal.rank_le_classOf {k : Thermal} {bound : Int} (lower : k.lowerBound = some bound) (x : Int) :
    k.rank ≤ (classOf x).rank ↔ bound ≤ x := by
  cases k with
  | cool => nomatch lower
  | normal | warm | hot =>
    cases lower
    rcases classOf_cases x with ⟨_, falls⟩ | ⟨_, _, falls⟩ | ⟨_, _, falls⟩ | ⟨_, falls⟩ <;> rw [falls] <;>
      simp only [Thermal.rank] <;> omega

/-- A class with a lower bound is left for a higher one at once, and for a lower one 3 degrees below the bound. -/
theorem nextClass_bounded {now : Thermal} {bound : Int} (lower : now.lowerBound = some bound) (x : Int) :
    nextClass false now x = if x ≤ bound - 3 ∨ now.rank < (classOf x).rank then classOf x else now := by
  rcases lt_or_ge x bound with below | above
  · have falls : (classOf x).rank < now.rank := not_le.mp (mt (Thermal.rank_le_classOf lower x).mp (not_le.mpr below))
    have noRise : ¬ now.rank < (classOf x).rank := not_lt.mpr falls.le
    simp [nextClass, lower, falls, noRise]
  · have stays : ¬ (classOf x).rank < now.rank := not_lt.mpr ((Thermal.rank_le_classOf lower x).mpr above)
    have near : ¬ x ≤ bound - 3 := by omega
    simp [nextClass, stays, near]

theorem nextClass_cool (x : Int) : nextClass false .cool x = classOf x := by
  rcases classOf_cases x with ⟨-, falls⟩ | ⟨-, -, falls⟩ | ⟨-, -, falls⟩ | ⟨-, falls⟩ <;> rw [nextClass, falls] <;> rfl

theorem nextClass_normal (x : Int) :
    nextClass false .normal x = if x ≤ 42 ∨ 85 ≤ x then classOf x else .normal := by
  have above : Thermal.normal.rank < (classOf x).rank ↔ 85 ≤ x := Thermal.rank_le_classOf (k := .warm) rfl x
  simp only [nextClass_bounded (now := .normal) rfl, above, Int.reduceSub]

theorem nextClass_warm (x : Int) :
    nextClass false .warm x = if x ≤ 82 ∨ 105 ≤ x then classOf x else .warm := by
  have above : Thermal.warm.rank < (classOf x).rank ↔ 105 ≤ x := Thermal.rank_le_classOf (k := .hot) rfl x
  simp only [nextClass_bounded (now := .warm) rfl, above, Int.reduceSub]

theorem nextClass_hot (x : Int) : nextClass false .hot x = if x ≤ 102 then classOf x else .hot := by
  have above : ¬ Thermal.hot.rank < (classOf x).rank := by cases classOf x <;> decide
  simp only [nextClass_bounded (now := .hot) rfl, above, or_false, Int.reduceSub]

/-! ## A port's change of state answered (R177) -/

/-- A taken command answered as it takes its port to another state. -/
theorem State.taken_turned_reply {st : PortState} (up : st ≠ .down) (p : Port) (c : Cmd) (x : Result) (l : List Byte) :
    ((s.taken p c).setPortState p st).reply p c.code x l = s.setPort p ((s.port p).answered st c.code x l) := by
  simp [State.reply_eq, State.setPortState, State.updatePort, State.taken, PortRec.withState, PortRec.answered,
    PortRec.send_eq, up]

/-- With a port RESTING the rest condition asks only that every port is RESTING or DOWN (R190). -/
theorem State.judgeRest_resting {p : Port} (resting : (s.port p).state = .resting) : s.judgeRest =
    if s.mode = .active ∧ ∀ x ∈ [Port.compose, .press, .proof], (s.port x).state = .resting ∨ (s.port x).state = .down then
      State.checkDrain { s with mode := .enteringRest, sched := { s.sched with drain := true } }
    else s := by
  have one : ∃ x ∈ [Port.compose, .press, .proof], (s.port x).state = .resting := ⟨p, by cases p <;> simp, resting⟩
  rw [State.judgeRest_eq]
  simp only [one, and_true]

/-! ## A wake by the store's mode (R193) -/

theorem State.wakeStore_active (mode : s.mode = .active) : s.wakeStore = s := by
  rw [State.wakeStore, mode]

theorem State.wakeStore_enteringRest (mode : s.mode = .enteringRest) : s.wakeStore = { s with
    mode := .active
    sched := Scheduler.grantNext { s.sched with drain := false } s.thermal } := by
  rw [State.wakeStore, mode]
  rfl

theorem State.wakeStore_retained (mode : s.mode = .retained) : s.wakeStore = { s with
    mode := .active
    retained := none
    sched := Scheduler.grantNext { s.sched with
      selfRetention := false, debt := 1, timerRunning := true, interval := s.thermal.interval } s.thermal } := by
  rw [State.wakeStore, mode]
  rfl

end Sys2Proof.Machine

section

open Sys2Proof Sys2Proof.Machine

/-- Settles O43: the shared grant is the first eligible candidate, and both events end in it and in the drain's
judgement; an expiry that finds the store busy makes no grant. -/
theorem grantsFollowTheOrder : Obligations.GrantsFollowTheOrder := by
  unfold Obligations.GrantsFollowTheOrder
  intro chosen
  have grants (c : Scheduler) (t : Thermal) (free : c.grant = none) (awake : c.selfRetention = false) :
      c.grantNext t = chosen c t := by
    rw [Scheduler.grantNext_first free awake]
    cases found : grantOrder.find? (c.eligible t) <;> simp only [chosen, found, Option.elim]
  refine ⟨grants, fun s awake granted => ?_, fun s awake running => ?_⟩
  · rw [exec_refreshCompletion granted, grants s.sched.release s.thermal rfl awake]
    rfl
  · intro interval c
    have inUse : s.thermal.interval = interval := rfl
    have expired : s.sched.expire s.thermal = c := by rw [Scheduler.expire, inUse]
    have stillAwake : c.selfRetention = false := by rw [← expired, Scheduler.expire_selfRetention, awake]
    rw [exec_refreshTimerExpiry running, expired]
    by_cases free : c.grant = none
    · rw [if_pos free, grants c _ free stillAwake]
    · rw [if_neg free, Scheduler.grantNext_busy free]

/-- Settles O45: the reading is the rounded value, and the class after it is given class by class. -/
theorem thermalReadingSetsClass : Obligations.ThermalReadingSetsClass := by
  intro v n s positive low high reading falls t
  have taken : s.takeReading (readingOf v) = t := by
    rw [readingOf_eq positive low high]
    show ({ s with lastReading := some reading, thermal := nextClass s.lastReading.isNone s.thermal reading } : State) = t
    congr 1
    cases s.lastReading with
    | none => exact nextClass_first s.thermal reading
    | some r =>
      cases s.thermal with
      | cool => exact nextClass_cool reading
      | normal => exact nextClass_normal reading
      | warm => exact nextClass_warm reading
      | hot => exact nextClass_hot reading
  show execThermalReading v s = _
  rw [execThermalReading, taken]

/-- Settles O46: the port's change leaves the store as it was, and so what follows is the rest condition or the wake
by the mode before it. -/
theorem restAndWakeByMode : Obligations.RestAndWakeByMode := by
  intro p s woken
  have wakes (r : PortRec) : (s.setPort p r).wakeStore = woken (s.setPort p r) := by
    have unmoved : (s.setPort p r).mode = s.mode := State.setPort_mode ..
    cases mode : s.mode with
    | active => simp only [woken, mode, State.wakeStore_active (unmoved.trans mode)]
    | enteringRest =>
      simp only [woken, mode, State.wakeStore_enteringRest (unmoved.trans mode), State.setPort_sched, State.setPort_thermal]
    | retained =>
      simp only [woken, mode, State.wakeStore_retained (unmoved.trans mode), State.setPort_sched, State.setPort_thermal]
  refine ⟨fun takes => ?_, fun takes => ?_, fun down => ?_⟩
  · intro t
    show Host.Outcome.next (s.judge p .rest (·.restPort p)) = _
    have resting : (t.port p).state = .resting := by rw [State.port_setPort]; rfl
    rw [State.judge_takes takes, State.restPort, State.taken_turned_reply (by decide)]
    show Host.Outcome.next t.judgeRest = _
    rw [State.judgeRest_resting resting, State.setPort_mode, State.setPort_sched]
  · show Host.Outcome.next (s.judge p .wake (·.wakePort p)) = _
    rw [State.judge_takes takes, State.wakePort, State.taken_turned_reply (by decide)]
    exact congrArg _ (wakes _)
  · show Host.Outcome.next _ = _
    rw [if_pos down]
    exact congrArg _ (wakes _)

end

/-! # The ports' own commands and events (R174, R177 to R180, R183 to R188) -/

namespace Sys2Proof.Machine

/-! ## Two-byte fields -/

theorem ofNat_highByte (w : Word16) : BitVec.ofNat 8 (w.toNat / 256) = w.extractLsb' 8 8 := by
  apply BitVec.eq_of_toNat_eq
  simp [Nat.shiftRight_eq_div_pow]

theorem ofNat_lowByte (w : Word16) : BitVec.ofNat 8 w.toNat = w.extractLsb' 0 8 := by
  apply BitVec.eq_of_toNat_eq
  simp

/-- A 16-bit number sent as two bytes, most significant first. -/
theorem field16_toNat (w : Word16) : field16 w.toNat = [w.extractLsb' 8 8, w.extractLsb' 0 8] := by
  rw [field16, ofNat_highByte, ofNat_lowByte]

/-- The two bytes of a field read as its number again. -/
theorem join16_field (w : Word16) : join16 (BitVec.ofNat 8 (w.toNat / 256)) (BitVec.ofNat 8 w.toNat) = w := by
  rw [ofNat_highByte, ofNat_lowByte, join16, BitVec.extractLsb'_append_extractLsb'_eq_extractLsb' (by rfl)]
  exact BitVec.extractLsb'_eq_self

/-! ## The judgement of a command frame, check by check (Table 9-11) -/

section Judged

variable {s : State} {p : Port} {c : Cmd} (body : State → State)

theorem State.judge_down (down : (s.port p).state = .down) : s.judge p c body = s := if_pos down

theorem State.judge_busy (up : (s.port p).state ≠ .down) (busy : (s.port p).outstanding ≠ none) :
    s.judge p c body = s.strayed p := by
  rw [State.judge, if_neg up, if_pos (Option.isSome_iff_ne_none.mpr busy)]
  rfl

theorem State.judge_refused (up : (s.port p).state ≠ .down) (free : (s.port p).outstanding = none)
    (refused : c.allowed p (s.port p).state = false) : s.judge p c body = s.answer p c .illegal [] := by
  rw [State.judge, if_neg up, if_neg (by simp [free]), refused]
  exact State.taken_reply up c .illegal []

end Judged

/-- Every command frame is judged before its command's own rule (R183). -/
theorem exec_commandFrame {i : Instr} {p : Port} {c : Cmd} (sent : i.commandFrame = some (p, c)) (s : State) :
    ∃ body, exec i s = .next (s.judge p c body) := by
  cases i <;> cases sent <;> exact ⟨_, rfl⟩

/-! ## Table 9-12 -/

theorem Cmd.allowed_iff (c : Cmd) (p : Port) (st : PortState) :
    c.allowed p st = true ↔ p ∈ c.ports ∧ st ∈ c.states := by simp [Cmd.allowed]

theorem Port.mem_all (p : Port) : p ∈ [Port.compose, .press, .proof] := by cases p <;> decide

theorem Port.mem_compose_press (p : Port) : p ∈ [Port.compose, .press] ↔ p ≠ .proof := by cases p <;> decide

theorem Port.mem_press_proof (p : Port) : p ∈ [Port.press, .proof] ↔ p ≠ .compose := by cases p <;> decide

theorem PortState.mem_up (st : PortState) : st ∈ [PortState.idle, .inbound, .outbound, .resting] ↔ st ≠ .down := by
  cases st <;> decide

/-! ## Replies of a port -/

/-- A reply to any command code, with the port's state as it was. -/
theorem State.take_reply {s : State} {p : Port} (up : (s.port p).state ≠ .down) (code : Byte) (x : Result)
    (l : List Byte) : (s.updatePort p (·.take code)).reply p code x l =
      s.setPort p ((s.port p).answered (s.port p).state code x l) := by
  simp [State.updatePort, State.reply_eq, PortRec.take, PortRec.send_eq, PortRec.answered, up]

/-- The flag byte of STATUS as a number (R188). -/
theorem statusFlags_eq (r : PortRec) (missed : Bool) : statusFlags r missed =
    BitVec.ofNat 8 (r.frameCheck.toNat + 2 * r.stray.toNat + 4 * missed.toNat) := by
  unfold statusFlags flagByte
  congr 1
  simp only [List.foldr_cons, List.foldr_nil]
  omega

theorem statusPayload_length (r : PortRec) (s : State) : (statusPayload r s).length = 12 := by
  unfold statusPayload signed16
  cases s.lastReading <;> rfl

/-- The STATUS payload shows nothing that taking a command changes. -/
theorem statusPayload_taken (s : State) (p : Port) (c : Cmd) :
    statusPayload ((s.taken p c).port p) (s.taken p c) = statusPayload (s.port p) s := by
  simp [statusPayload, State.taken, statusFlags]

/-- STATUS once taken: the reply joins the transmit list, and the two flags are clear (R188). -/
theorem State.taken_status {s : State} {p : Port} (up : (s.port p).state ≠ .down) :
    (s.taken p .status).status p =
      s.setPort p ((s.port p).answered (s.port p).state 0x01 .ok (statusPayload (s.port p) s)).clearFlags := by
  rw [State.status, statusPayload_taken, State.taken_reply up, State.answer, State.updatePort, State.port_setPort,
    State.setPort_setPort]
  rfl

/-! ## Frames as bytes (R177 to R179) -/

/-- The oldest frame leaves, and a reply that leaves ends its command's outstanding status (R174, R183). -/
theorem PortRec.sentOne_cons {r : PortRec} {f : Frame} {rest : List Frame} (frames : r.transmit = f :: rest) :
    r.sentOne = { r with transmit := rest, outstanding := if f.isReply then none else r.outstanding } := by
  rw [PortRec.sentOne, frames]

theorem closed16_eq (mark : Byte) (body : List Byte) : closed16 mark body =
    mark :: body ++ [(crc16 body).extractLsb' 8 8, (crc16 body).extractLsb' 0 8] := by
  rw [closed16, field16_toNat]

end Sys2Proof.Machine

section

open Sys2Proof Sys2Proof.Machine

/-- Settles O4: the rows of Table 9-12 one by one, and the checks of Table 9-11 in their order. -/
theorem commandFramesJudgedInOrder : Obligations.CommandFramesJudgedInOrder := by
  refine ⟨fun c p st => ?_, fun i p c s sent => ?_⟩
  · rw [Cmd.allowed_iff]
    cases c with
    | status | queryPage | listPages => exact (and_iff_right (Port.mem_all p)).trans st.mem_up
    | rest | wake => exact (and_iff_right (Port.mem_all p)).trans List.mem_singleton
    | peekQueue => exact and_congr (Port.mem_compose_press p) (by simp [Cmd.states])
    | stop => exact and_congr (Port.mem_press_proof p) List.mem_singleton
    | _ => simp [Cmd.ports, Cmd.states]
  · obtain ⟨body, judged⟩ := exec_commandFrame sent s
    rw [judged]
    exact ⟨fun down => congrArg _ (State.judge_down body down),
      fun up busy => congrArg _ (State.judge_busy body up busy),
      fun up free refused => congrArg _ (State.judge_refused body up free refused)⟩

/-- Settles O5: none of the three events reaches past its port. -/
theorem badTrafficSetsOnlyFlags : Obligations.BadTrafficSetsOnlyFlags := by
  intro p b s up
  refine ⟨?_, congrArg _ (if_neg up), congrArg _ (if_neg up)⟩
  show execUnknownCommand p b s = _
  rw [execUnknownCommand, if_neg up]
  by_cases free : (s.port p).outstanding = none
  · rw [if_pos free, if_neg (by simp [free]), State.take_reply up]
  · rw [if_neg free, if_pos (Option.isSome_iff_ne_none.mpr free)]
    rfl

/-- Settles O6: STATUS is taken, its payload shows the state as it was found, and then the flags are cleared. -/
theorem statusReportsAndClearsFlags : Obligations.StatusReportsAndClearsFlags := by
  refine ⟨fun m => by cases m <;> rfl, fun t => by cases t <;> rfl, fun p s up free => ?_⟩
  intro r payload
  have shown : statusPayload r s = payload := by
    simp only [statusPayload, statusFlags_eq, payload]
    rfl
  refine ⟨shown ▸ statusPayload_length r s, ?_⟩
  show Host.Outcome.next (s.judge p .status (·.status p)) = _
  rw [State.judge_takes (State.takes_everywhere (.inl rfl) up free), State.taken_status up, ← shown]
  rfl

/-- Settles O7: the frame that leaves, and then the bytes of each kind of frame. -/
theorem frameSentRemovesOldest : Obligations.FrameSentRemovesOldest := by
  refine ⟨fun p s f rest frames => ?_, fun code result port payload up => ?_, fun t => by cases t <;> rfl,
    fun kind depth plane line count data => ?_, fun ending handle resume => ?_⟩
  · show Host.Outcome.next (s.setPort p (s.port p).sentOne) = _
    rw [PortRec.sentOne_cons frames]
    cases f <;> rfl
  · intro resultCode portCode n body
    have resultByte : result.code = resultCode := by cases result <;> rfl
    have portByte : port.code = portCode := by
      cases port with
      | down => exact absurd rfl up
      | _ => rfl
    rw [Frame.bytes, closed16_eq, resultByte, portByte, field16_eq]
  · intro body
    have bytes : blockBody kind.code depth.code (BitVec.ofNat 8 plane) line count data = body := by
      rw [blockBody, field16_eq, field16_eq]
      cases kind <;> cases depth <;> rfl
    rw [Frame.bytes, closed16_eq, bytes]
  · intro body
    have bytes : ending.code :: handle :: field16 resume = body := by
      rw [field16_eq]
      cases ending <;> rfl
    simp only [Frame.bytes, bytes]

end

/-! # Frames received byte by byte (R174 to R176, R178, R179, R181, R183, R185, R186) -/

namespace Sys2Proof.Machine

open Decode

/-! ## One byte at a receiver (R175) -/

variable {s : State} {p : Port} {b : Byte}

/-- `s` with a port's receiver holding these bytes, and nothing else changed. -/
def State.receiving (s : State) (p : Port) (partialFrame : List Byte) : State :=
  s.setPort p { s.port p with receiver := partialFrame }

@[simp] theorem State.port_receiving (s : State) (p : Port) (f : List Byte) :
    (s.receiving p f).port p = { s.port p with receiver := f } := State.port_setPort ..

@[simp] theorem State.pending_receiving (s : State) (p : Port) (f : List Byte) :
    (s.receiving p f).pending = s.pending := State.setPort_pending ..

@[simp] theorem State.receiving_receiving (s : State) (p : Port) (f g : List Byte) :
    (s.receiving p f).receiving p g = s.receiving p g := by simp [State.receiving]

/-- What waits does not change as a receiver does. -/
theorem State.receiving_pending (s : State) (p : Port) (f : List Byte) :
    { s.receiving p f with pending := s.pending } = s.receiving p f := by cases p <;> rfl

theorem State.receiving_self {f : List Byte} (holds : (s.port p).receiver = f) : s.receiving p f = s := by
  subst holds
  exact s.setPort_port p

theorem State.receiveByte_up (up : (s.port p).state ≠ .down) (b : Byte) :
    s.receiveByte p b = { s.receiving p (receive p (s.port p).receiver b).1 with
      pending := s.pending ++ (receive p (s.port p).receiver b).2.toList } := if_neg up

/-- A byte between frames that is no mark (R186). -/
theorem State.receiveByte_stray (up : (s.port p).state ≠ .down) (between : (s.port p).receiver = [])
    (noMark : b ∉ frameMarks) : s.receiveByte p b = { s with pending := s.pending ++ [.strayByte p b] } := by
  have stray : receive p [] b = ([], some (.strayByte p b)) := if_pos ⟨rfl, by simpa using noMark⟩
  rw [State.receiveByte_up up, between, stray, State.receiving_self between]
  rfl

/-- A byte of a frame: it ends the frame or joins the bytes received. -/
theorem receive_frame {got : List Byte} (begins : got = [] → b ∈ frameMarks) : receive p got b =
    if finished (got ++ [b]) then ([], some (frame p (got ++ [b]))) else (got ++ [b], none) :=
  if_neg fun ⟨between, noMark⟩ => noMark (by simpa using begins between)

theorem State.receiveByte_unfinished (up : (s.port p).state ≠ .down)
    (begins : (s.port p).receiver = [] → b ∈ frameMarks) (more : finished ((s.port p).receiver ++ [b]) = false) :
    s.receiveByte p b = s.receiving p ((s.port p).receiver ++ [b]) := by
  rw [State.receiveByte_up up, receive_frame begins, if_neg (ne_true_of_eq_false more)]
  show ({ s.receiving p _ with pending := s.pending ++ [] } : State) = _
  rw [List.append_nil, State.receiving_pending]

theorem State.receiveByte_finished (up : (s.port p).state ≠ .down)
    (begins : (s.port p).receiver = [] → b ∈ frameMarks) (done : finished ((s.port p).receiver ++ [b]) = true) :
    s.receiveByte p b = { s.receiving p [] with
      pending := s.pending ++ [frame p ((s.port p).receiver ++ [b])] } := by
  rw [State.receiveByte_up up, receive_frame begins, done]
  rfl

/-! ## A frame whole -/

/-- The bytes that complete a frame put its command at the tail of the waiting ones. -/
theorem State.receiveBytes_rest (rest : List Byte) (up : (s.port p).state ≠ .down)
    (begins : (s.port p).receiver = [] → b ∈ frameMarks)
    (more : ∀ n < rest.length, finished ((s.port p).receiver ++ b :: rest.take n) = false)
    (done : finished ((s.port p).receiver ++ b :: rest) = true) :
    s.receiveBytes p (b :: rest) = { s.receiving p [] with
      pending := s.pending ++ [frame p ((s.port p).receiver ++ b :: rest)] } := by
  induction rest generalizing s b with
  | nil => exact State.receiveByte_finished up begins done
  | cons next rest ih =>
    have first := State.receiveByte_unfinished up begins (more 0 (Nat.succ_pos _))
    show (s.receiveByte p b).receiveBytes p (next :: rest) = _
    rw [first, ih (by simpa using up) (by simp) (fun n inside => ?_) (by simpa using done)]
    · simp
    · simpa using more (n + 1) (Nat.succ_lt_succ inside)

/-- A frame received from its mark on, with no shorter run of its bytes finished. -/
theorem State.receiveBytes_frame {m : Byte} {tail : List Byte} (up : (s.port p).state ≠ .down)
    (between : (s.port p).receiver = []) (mark : m ∈ frameMarks)
    (more : ∀ n < tail.length, finished (m :: tail.take n) = false) (done : finished (m :: tail) = true) :
    s.receiveBytes p (m :: tail) = { s with pending := s.pending ++ [frame p (m :: tail)] } := by
  rw [State.receiveBytes_rest tail up (fun _ => mark) (by simpa [between] using more) (by simpa [between] using done),
    State.receiving_self between, between]
  rfl

/-! ## The extent of a frame by its mark (R175) -/

theorem finished_command (tail : List Byte) : finished (0xC3 :: tail) = true ↔ tail.length = 13 := by
  simp [finished]

theorem finished_token (tail : List Byte) : finished (0x96 :: tail) = true ↔ tail.length = 1 := by
  simp [finished]

theorem finished_block (tail : List Byte) : finished (0x5A :: tail) = true ↔
    7 ≤ tail.length ∧ tail.length = headerData (0x5A :: tail) + 9 := by
  simp [finished]
  omega

/-- A header's first bytes announce the data (R175). -/
theorem headerData_take {tail : List Byte} {n : Nat} (header : 7 ≤ n) :
    headerData (0x5A :: tail.take n) = headerData (0x5A :: tail) := by
  have same (k : Nat) (inside : k < 7) : (0x5A :: tail.take n).getD (k + 1) 0 = (0x5A :: tail).getD (k + 1) 0 := by
    simp [List.getElem?_take_of_lt (show k < n by omega)]
  simp only [headerData, headerCount, same 1 (by decide), same 5 (by decide), same 6 (by decide)]

theorem State.receiveBytes_command {f : List Byte} (up : (s.port p).state ≠ .down)
    (between : (s.port p).receiver = []) (length : f.length = 14) (mark : f.head? = some 0xC3) :
    s.receiveBytes p f = { s with pending := s.pending ++ [commandFrame p f] } := by
  obtain ⟨tail, rfl⟩ : ∃ tail, f = 0xC3 :: tail := List.head?_eq_some_iff.mp mark
  have whole : tail.length = 13 := by simpa using length
  refine State.receiveBytes_frame up between (by decide) (fun n short => ?_) ((finished_command tail).mpr whole)
  rw [Bool.eq_false_iff, ne_eq, finished_command, List.length_take]
  omega

theorem State.receiveBytes_token (up : (s.port p).state ≠ .down) (between : (s.port p).receiver = []) (code : Byte) :
    s.receiveBytes p [0x96, code] = { s with pending := s.pending ++ [.blockToken p code] } := by
  refine State.receiveBytes_frame up between (by decide) (fun n short => ?_) ((finished_token [code]).mpr rfl)
  rw [List.length_singleton] at short
  rw [Bool.eq_false_iff, ne_eq, finished_token, List.length_take]
  omega

theorem State.receiveBytes_block {tail : List Byte} (up : (s.port p).state ≠ .down)
    (between : (s.port p).receiver = []) (header : 7 ≤ tail.length)
    (length : tail.length = headerData (0x5A :: tail) + 9) :
    s.receiveBytes p (0x5A :: tail) =
      { s with pending := s.pending ++ [.lineBlock p (readLineBlock (0x5A :: tail))] } := by
  refine State.receiveBytes_frame up between (by decide) (fun n short => ?_)
    ((finished_block tail).mpr ⟨header, length⟩)
  rw [Bool.eq_false_iff, ne_eq, finished_block, List.length_take]
  rintro ⟨reached, extent⟩
  rw [headerData_take (by omega)] at extent
  omega

/-! ## Line blocks (Table 9-7) -/

/-- The bytes of a line block after its mark. -/
def blockTail (b : LineBlock) : List Byte :=
  blockBody b.kind b.depth b.plane b.line.toNat b.count.toNat b.data ++ word b.crc

theorem headerData_blockTail (b : LineBlock) : headerData (0x5A :: blockTail b) = announcedData b.depth b.count := by
  show announcedData b.depth (join16 _ _) = _
  exact congrArg _ (join16_field b.count)

theorem LineBlock.announced {b : LineBlock} (formed : b.wellFormed = true) :
    announcedData b.depth b.count = b.data.length := (beq_iff_eq.mp formed).symm

theorem length_blockTail (b : LineBlock) : (blockTail b).length = b.data.length + 9 := by
  simp [blockTail, blockBody, word, field16]

/-- The bytes of a line block, its data as long as its header says, read as that block. -/
theorem readLineBlock_blockTail {b : LineBlock} (formed : b.wellFormed = true) :
    readLineBlock (0x5A :: blockTail b) = b := by
  have announced := (headerData_blockTail b).trans (LineBlock.announced formed)
  have count : headerCount (0x5A :: blockTail b) = b.count := join16_field b.count
  have line : join16 ((0x5A :: blockTail b).getD 4 0) ((0x5A :: blockTail b).getD 5 0) = b.line := join16_field b.line
  have rest : (0x5A :: blockTail b).drop 8 = b.data ++ word b.crc := by simp [blockTail, blockBody, field16]
  have after (k : Nat) : (0x5A :: blockTail b).getD (8 + k) 0 = (b.data ++ word b.crc).getD k 0 := by
    rw [← rest, List.getD_eq_getElem?_getD, List.getD_eq_getElem?_getD, List.getElem?_drop]
  have high : (0x5A :: blockTail b).getD (8 + b.data.length) 0 = BitVec.ofNat 8 (b.crc.toNat / 256) := by
    rw [after]
    simp [word, field16]
  have low : (0x5A :: blockTail b).getD (9 + b.data.length) 0 = BitVec.ofNat 8 b.crc.toNat := by
    rw [show 9 + b.data.length = 8 + (b.data.length + 1) by omega, after]
    simp [word, field16]
  simp only [readLineBlock, announced, count, line, rest, high, low, List.take_left, join16_field]
  rfl

/-! ## Command frames (R176, R181) -/

/-- Whether a command frame's CRC-8 and close byte are right (R176). -/
theorem frameCheckGood_iff (f : List Byte) : frameCheckGood f = true ↔
    f.getD 12 0 = crc8 ((f.drop 1).take 11) ∧ f.getD 13 0 = 0x3C := by
  simp only [frameCheckGood, Bool.and_eq_true, beq_iff_eq]

theorem Cmd.ofCode_code (c : Cmd) : Cmd.ofCode c.code = some c := by cases c <;> decide

theorem Cmd.ofCode_none {code : Byte} (unknown : ∀ c : Cmd, c.code ≠ code) : Cmd.ofCode code = none :=
  List.find?_eq_none.mpr fun c _ => by simpa using unknown c

theorem mem_knownCodes (c : Cmd) : c.code ∈ knownCodes := by cases c <;> decide

theorem commandFrame_bad {f : List Byte} (bad : ¬ frameCheckGood f = true) (p : Port) :
    commandFrame p f = .frameCheckFailure p := if_neg bad

theorem commandFrame_unknown {f : List Byte} (good : frameCheckGood f = true)
    (unknown : ∀ c : Cmd, c.code ≠ f.getD 1 0) (p : Port) : commandFrame p f = .unknownCommand p (f.getD 1 0) := by
  rw [commandFrame, if_pos good, Cmd.ofCode_none unknown]

theorem commandFrame_known {f : List Byte} {c : Cmd} (good : frameCheckGood f = true) (code : c.code = f.getD 1 0)
    (p : Port) : commandFrame p f = readCommand p f c := by
  rw [commandFrame, if_pos good, ← code, Cmd.ofCode_code]

/-! ## The frames a master sends -/

section Closed

variable {params : List Byte} (fits : params.length ≤ 10) (code : Byte)
include fits

theorem closeCommand_length : (closeCommand code params).length = 14 := by
  simp [closeCommand]
  omega

theorem frameCheckGood_closeCommand : frameCheckGood (closeCommand code params) = true := by
  have body : (code :: params ++ List.replicate (10 - params.length) 0).length = 11 := by simp; omega
  rw [frameCheckGood_iff]
  generalize whole : code :: params ++ List.replicate (10 - params.length) 0 = bytes at body
  have closed : closeCommand code params = 0xC3 :: (bytes ++ [crc8 bytes, 0x3C]) := by rw [← whole]; rfl
  simp [closed, body]

end Closed

/-- A master's command frame is 14 bytes closed by a good frame check, its command's code second. -/
theorem masterFrame_closed {i : Instr} {p : Port} {c : Cmd} (sent : i.commandFrame = some (p, c)) :
    ∃ params, params.length ≤ 10 ∧ masterFrame i = some (closeCommand c.code params) := by
  cases i <;> cases sent <;> exact ⟨_, Nat.le_of_ble_eq_true rfl, rfl⟩

/-! ## Parameters (Table 9-9, R181) -/

/-- Two frames agree in the parameter bits that a command reads (R176, R181). -/
def ReadsAlike (i : Instr) (f bytes : List Byte) : Prop :=
  ∀ j < 10, param f j &&& i.readBits.getD j 0 = param bytes j &&& i.readBits.getD j 0

section Parameters

variable {i : Instr} {f bytes : List Byte} (alike : ReadsAlike i f bytes)
include alike

theorem ReadsAlike.byte (j : Nat) (b : Byte) (inside : j < 10 := by decide)
    (whole : i.readBits.getD j 0 = .allOnes 8 := by rfl) (sent : param bytes j = b := by rfl) : param f j = b := by
  have masked := alike j inside
  rwa [whole, sent, BitVec.and_allOnes, BitVec.and_allOnes] at masked

theorem ReadsAlike.word (j : Nat) (w : Word16) (inside : j + 1 < 10 := by decide)
    (high : i.readBits.getD j 0 = .allOnes 8 := by rfl) (low : i.readBits.getD (j + 1) 0 = .allOnes 8 := by rfl)
    (sentHigh : param bytes j = BitVec.ofNat 8 (w.toNat / 256) := by rfl)
    (sentLow : param bytes (j + 1) = BitVec.ofNat 8 w.toNat := by rfl) : param16 f j = w := by
  rw [param16, alike.byte j _ (by omega) high sentHigh, alike.byte (j + 1) _ inside low sentLow, join16_field]

theorem ReadsAlike.bit (j : Nat) {k : Nat} (inside : j < 10) (reads : (i.readBits.getD j 0).getLsbD k = true) :
    (param f j).getLsbD k = (param bytes j).getLsbD k := by
  have masked := congrArg (·.getLsbD k) (alike j inside)
  simpa only [BitVec.getLsbD_and, reads, Bool.and_true] using masked

end Parameters

theorem readOpen_continue {f : List Byte} (bit : (param f 1).getLsbD 7 = true) (p : Port) :
    readOpen p f = .openPageContinue p (param f 0) := if_pos bit

theorem readOpen_open {f : List Byte} (bit : (param f 1).getLsbD 7 = false) (p : Port) :
    readOpen p f = .openPage p
      { handle := param f 0
        retention := if (param f 1).getLsbD 6 then .volatile else .keep
        planes := (param f 1).truncate 3
        bandHeight := param f 2
        width := param16 f 3
        height := param16 f 5
        tolerances := param f 7 ++ param f 8 ++ param f 9 } := if_neg (ne_true_of_eq_false bit)

/-- OPEN_PAGE's option byte as a master sends it: the ignored bits and the continue flag 0 (R181). -/
def optionByte (r : Retention) (planes : BitVec 3) : Byte :=
  (if r = .volatile then 0x40#8 else 0#8) ||| planes.zeroExtend 8

theorem optionByte_continue (r : Retention) (planes : BitVec 3) : (optionByte r planes).getLsbD 7 = false := by
  cases r <;> simp [optionByte]

theorem optionByte_retention (r : Retention) (planes : BitVec 3) :
    (if (optionByte r planes).getLsbD 6 then Retention.volatile else .keep) = r := by
  cases r <;> simp [optionByte]

theorem optionByte_planes (r : Retention) (planes : BitVec 3) : (optionByte r planes).truncate 3 = planes := by
  revert planes
  cases r <;> decide

theorem tolerances_join (t : BitVec 24) : t.extractLsb' 16 8 ++ t.extractLsb' 8 8 ++ t.extractLsb' 0 8 = t := by
  have first : t.extractLsb' 16 8 ++ t.extractLsb' 8 8 = t.extractLsb' 8 16 :=
    BitVec.extractLsb'_append_extractLsb'_eq_extractLsb' (by rfl)
  rw [first]
  exact (BitVec.extractLsb'_append_extractLsb'_eq_extractLsb' (by rfl)).trans BitVec.extractLsb'_eq_self

/-- OPEN_PAGE read back, whatever the three ignored bits of its option byte (R181). -/
theorem readOpen_openPage {p : Port} {q : OpenParams} {f : List Byte}
    (alike : ReadsAlike (.openPage p q) f (closeCommand Cmd.openPage.code (openField q))) :
    readOpen p f = .openPage p q := by
  have option {k : Nat} (reads : (0xC7#8).getLsbD k = true) :
      (param f 1).getLsbD k = (optionByte q.retention q.planes).getLsbD k := alike.bit 1 (by decide) reads
  have planes : (param f 1).truncate 3 = q.planes := by
    rw [← optionByte_planes q.retention q.planes]
    apply BitVec.eq_of_getLsbD_eq
    intro k inside
    have reads : (0xC7#8).getLsbD k = true := by interval_cases k <;> rfl
    simp [inside, option reads]
  rw [readOpen_open ((option rfl).trans (optionByte_continue ..)), option (k := 6) rfl, optionByte_retention, planes,
    alike.byte 0 q.handle, alike.byte 2 q.bandHeight, alike.word 3 q.width, alike.word 5 q.height,
    alike.byte 7 (q.tolerances.extractLsb' 16 8), alike.byte 8 (q.tolerances.extractLsb' 8 8),
    alike.byte 9 (q.tolerances.extractLsb' 0 8), tolerances_join]

/-- A frame that agrees with a command's in the bits it reads is that command (R181). -/
theorem readCommand_readsAlike {i : Instr} {p : Port} {c : Cmd} {f bytes : List Byte}
    (sent : i.commandFrame = some (p, c)) (frame : masterFrame i = some bytes) (alike : ReadsAlike i f bytes) :
    readCommand p f c = i := by
  cases i <;> cases sent <;> cases frame
  case openPage q => exact readOpen_openPage alike
  case openPageContinue h =>
    have flag : (0x80#8).getLsbD 7 = true := rfl
    rw [readCommand, readOpen_continue ((alike.bit 1 (by decide) flag).trans flag), alike.byte 0 h]
  case queryPage h e => rw [readCommand, alike.byte 0 h, alike.word 1 e]
  case listPages h n => rw [readCommand, alike.byte 0 h, alike.word 1 n]
  case enqueue h n => rw [readCommand, alike.byte 0 h, alike.byte 1 n]
  case rebind o n => rw [readCommand, alike.byte 0 o, alike.byte 1 n]
  case release a b => rw [readCommand, alike.byte 0 a, alike.byte 1 b]
  case start b l t w => rw [readCommand, alike.word 0 b, alike.word 2 l, alike.word 4 t, alike.word 6 w]
  case view v =>
    rw [readCommand, alike.byte 0 v.handle, alike.byte 1 v.planeMask, alike.word 2 v.firstBand,
      alike.word 4 v.bandCount, alike.byte 6 v.decimation, alike.byte 7 v.depth]
  case hold h r => rw [readCommand, alike.byte 0 h, alike.byte 1 r]
  case lift h => rw [readCommand, alike.byte 0 h]
  all_goals rfl

/-! ## OPEN_PAGE's option byte as a number (R181) -/

theorem getLsbD_seven (x : Byte) : x.getLsbD 7 = decide (128 ≤ x.toNat) := BitVec.msb_eq_decide x

theorem getLsbD_six {x : Byte} (low : ¬ 128 ≤ x.toNat) : x.getLsbD 6 = decide (64 ≤ x.toNat) := by
  rw [BitVec.getLsbD, Nat.testBit_eq_decide_div_mod_eq, decide_eq_decide]
  omega

theorem truncate_three (x : Byte) : x.truncate 3 = BitVec.ofNat 3 (x.toNat % 8) := by
  apply BitVec.eq_of_toNat_eq
  simp

theorem readOpen_eq (p : Port) (f : List Byte) : readOpen p f =
    if 128 ≤ (param f 1).toNat then .openPageContinue p (param f 0)
    else .openPage p
      { handle := param f 0
        retention := if 64 ≤ (param f 1).toNat then .volatile else .keep
        planes := BitVec.ofNat 3 ((param f 1).toNat % 8)
        bandHeight := param f 2
        width := param16 f 3
        height := param16 f 5
        tolerances := param f 7 ++ param f 8 ++ param f 9 } := by
  by_cases flag : 128 ≤ (param f 1).toNat
  · rw [if_pos flag, readOpen_continue ((getLsbD_seven _).trans (decide_eq_true flag))]
  · rw [if_neg flag, readOpen_open ((getLsbD_seven _).trans (decide_eq_false flag)), getLsbD_six flag, truncate_three]
    simp only [decide_eq_true_eq]

/-! ## What a port receives of a master -/

theorem sentTo_of_commandFrame {i : Instr} {p : Port} {c : Cmd} (sent : i.commandFrame = some (p, c)) :
    i.sentTo = some p := by
  cases i <;> cases sent <;> rfl

/-- A good frame with a command's code, alike in the bits it reads, is received as that command. -/
theorem commandFrame_readsAlike {i : Instr} {p : Port} {c : Cmd} {f bytes : List Byte}
    (good : frameCheckGood f = true) (code : c.code = f.getD 1 0) (sent : i.commandFrame = some (p, c))
    (frame : masterFrame i = some bytes) (alike : ReadsAlike i f bytes) : commandFrame p f = i :=
  (commandFrame_known good code p).trans (readCommand_readsAlike sent frame alike)

/-- The frame a master sends for a command is received as that command. -/
theorem State.receiveBytes_masterFrame {i : Instr} {bytes : List Byte} (formed : i.wellFormed = true)
    (link : i.sentTo = some p) (frame : masterFrame i = some bytes) (up : (s.port p).state ≠ .down)
    (between : (s.port p).receiver = []) : s.receiveBytes p bytes = { s with pending := s.pending ++ [i] } := by
  cases sent : i.commandFrame with
  | some sender =>
    obtain ⟨q, c⟩ := sender
    obtain rfl : q = p := Option.some.inj ((sentTo_of_commandFrame sent).symm.trans link)
    obtain ⟨params, fits, closed⟩ := masterFrame_closed sent
    obtain rfl := Option.some.inj (closed.symm.trans frame)
    have code : c.code = (closeCommand c.code params).getD 1 0 := rfl
    rw [State.receiveBytes_command up between (closeCommand_length fits _) rfl,
      commandFrame_readsAlike (frameCheckGood_closeCommand fits _) code sent frame fun _ _ => rfl]
  | none =>
    cases i with
    | unknownCommand q code =>
      cases link
      cases frame
      have unknown (c : Cmd) : c.code ≠ code := fun known => by
        simp [Instr.wellFormed, ← known, mem_knownCodes] at formed
      rw [State.receiveBytes_command up between (closeCommand_length (Nat.zero_le _) _) rfl,
        commandFrame_unknown (frameCheckGood_closeCommand (Nat.zero_le _) _) unknown]
      rfl
    | lineBlock q b =>
      cases link
      cases frame
      have length : (blockTail b).length = headerData (0x5A :: blockTail b) + 9 := by
        rw [length_blockTail, headerData_blockTail, LineBlock.announced formed]
      show s.receiveBytes p (0x5A :: blockTail b) = _
      rw [State.receiveBytes_block up between (by omega) length, readLineBlock_blockTail formed]
    | blockToken q code =>
      cases link
      cases frame
      exact State.receiveBytes_token up between code
    | strayByte q b =>
      cases link
      cases frame
      exact State.receiveByte_stray up between (by simpa [Instr.wellFormed] using formed)
    | _ => simp [Instr.sentTo, sent] at link

end Sys2Proof.Machine

section

open Sys2Proof Sys2Proof.Machine

/-- Settles O56: a master's frame ends where its receiver ends it and reads back as its command; any 14 bytes
after the mark end there too, and are read by the frame check, the code and the bits the command reads. -/
theorem masterFramesAreReceived : Obligations.MasterFramesAreReceived := by
  refine ⟨fun c => by cases c <;> rfl, fun i p bytes s formed link frame up between =>
    State.receiveBytes_masterFrame formed link frame up between, ?_⟩
  intro f p s length mark up between got code good
  have received : s.receiveBytes p f = got (Decode.commandFrame p f) :=
    State.receiveBytes_command up between length mark
  have checked : Decode.frameCheckGood f = true ↔ good := frameCheckGood_iff f
  rw [received]
  refine ⟨fun bad => congrArg got (commandFrame_bad (mt checked.mp bad) p),
    fun passed unknown => congrArg got (commandFrame_unknown (checked.mpr passed) unknown p),
    fun passed i c bytes sent named frame alike =>
      congrArg got (commandFrame_readsAlike (checked.mpr passed) named sent frame alike),
    fun passed c named => ?_⟩
  intro b w
  refine congrArg got ((commandFrame_known (checked.mpr passed) named p).trans ?_)
  cases c with
  | openPage => exact readOpen_eq p f
  | _ => rfl

end

/-! # The command at the front of the queue (log entry 5) -/

namespace Sys2Proof.Machine

theorem step_of_pending_cons {s : State} {c : Instr} {rest : List Instr} (front : s.pending = c :: rest) :
    step s = exec c { s with pending := rest } := by
  unfold step
  rw [front]

theorem step_of_pending_nil {s : State} (idle : s.pending = []) : step s = .next s := by
  unfold step
  rw [idle]

end Sys2Proof.Machine

section

open Sys2Proof Sys2Proof.Machine

/-- Settles O1, by the two shapes of the queue: a command before the rest, or none. -/
theorem stepTakesFrontCommand : Obligations.StepTakesFrontCommand :=
  ⟨fun _ _ _ => step_of_pending_cons rfl, fun _ => step_of_pending_nil rfl⟩

end
